-- ==== Sys2Proof/Word.lean ====
section
/-! DEFINITION. The widths of the two ports and of a stored byte (`00_scope.md` R7, R10). -/

namespace Sys2Proof

/-- One byte of a frame or buffer, and also one command-word field of 8 bits. -/
abbrev Byte := BitVec 8

/-- One command word (R84: "Every command is one 32-bit word"). -/
abbrev Word := BitVec 32

/-- An address of the register read space (R38: "a 16-bit word address"). -/
abbrev ReadAddr := BitVec 16

/-- A word the read port answers (R38: "a 64-bit value"). -/
abbrev ReadData := BitVec 64

end Sys2Proof
end

