-- ==== Sys2Proof/Syntax.lean ====
section
/-! DEFINITION. The commands: one constructor for each row of the opcode map (`30_encoding.md` R86), in its order.
Each operand has exactly the width R85 gives its field, so an operand out of range cannot be written. -/

namespace Sys2Proof

/-- A command of the block. `b` is format B's byte, `k` format K's channel index, `imm` format I's immediate. -/
inductive Instr where
  | nop
  | reset
  | errclr
  | setv (imm : BitVec 16)
  | setfl (imm : BitVec 16)
  | setfh (imm : BitVec 16)
  | setimp (imm : BitVec 16)
  | setch (imm : BitVec 16)
  | setint (imm : BitVec 16)
  | enc
  | ackb (b : Byte)
  | ackclr
  | vack
  | rxb (b : Byte)
  | rxclr
  | rxdrop (imm : BitVec 16)
  | val
  | cbat
  | ccur
  | cmagi
  | cpot (k : BitVec 8)
  | cmagv (k : BitVec 8)
  | crho (k : BitVec 8)
  | call
  deriving DecidableEq, Repr

end Sys2Proof
end

