-- ==== Sys2Proof/WellFormed.lean ====
section
/-! DEFINITION. Which command words are legal: the formats of `30_encoding.md` R84 with their masks, the opcode map
of R86 as a list of rows, and the selection rule `(w & mask) == op`. Written apart from the decoder, which is
proved against it. Every value of `Instr` is well-formed by the types of its operands. -/

namespace Sys2Proof

/-- The four formats of R84. -/
inductive Format where
  | N
  | B
  | K
  | I
  deriving DecidableEq, Repr

/-- R84's last column: the bits a format fixes. -/
def formatMask : Format → Word
  | .N => 0xFFFFFFFF#32
  | .B => 0xFFFF00FF#32
  | .K => 0xFFFF00FF#32
  | .I => 0x0000FFFF#32

/-- One row of the opcode map. -/
structure OpRow where
  mnemonic : String
  op : Byte
  format : Format
  deriving DecidableEq, Repr

/-- The opcode map of R86, row by row. -/
def opcodeMap : List OpRow :=
  [⟨"NOP", 0x00#8, .N⟩, ⟨"RESET", 0x01#8, .N⟩, ⟨"ERRCLR", 0x02#8, .N⟩,
   ⟨"SETV", 0x10#8, .I⟩, ⟨"SETFL", 0x11#8, .I⟩, ⟨"SETFH", 0x12#8, .I⟩,
   ⟨"SETIMP", 0x13#8, .I⟩, ⟨"SETCH", 0x14#8, .I⟩, ⟨"SETINT", 0x15#8, .I⟩, ⟨"ENC", 0x18#8, .N⟩,
   ⟨"ACKB", 0x20#8, .B⟩, ⟨"ACKCLR", 0x21#8, .N⟩, ⟨"VACK", 0x22#8, .N⟩,
   ⟨"RXB", 0x30#8, .B⟩, ⟨"RXCLR", 0x31#8, .N⟩, ⟨"RXDROP", 0x32#8, .I⟩, ⟨"VAL", 0x33#8, .N⟩,
   ⟨"CBAT", 0x40#8, .N⟩, ⟨"CCUR", 0x41#8, .N⟩, ⟨"CMAGI", 0x42#8, .N⟩,
   ⟨"CPOT", 0x43#8, .K⟩, ⟨"CMAGV", 0x44#8, .K⟩, ⟨"CRHO", 0x45#8, .K⟩, ⟨"CALL", 0x4F#8, .N⟩]

/-- R86: a word selects a row when `(w & mask) == op`, which also asks the reserved bits to be zero. -/
def selectsRow (w : Word) (row : OpRow) : Bool :=
  w &&& formatMask row.format == row.op.setWidth 32

/-- A word is legal when it selects a row; every other word is illegal (R87). -/
def wellFormedWord (w : Word) : Bool :=
  opcodeMap.any (selectsRow w)

end Sys2Proof
end

