-- ==== Sys2Proof/Decode.lean ====
section
/-! DEFINITION. The decoder and the encoder of command words (`30_encoding.md` R84–R88). Decoding is total: `none`
is the illegal word of R87. -/

namespace Sys2Proof

/-- R84: op is w[7:0]. -/
def opField (w : Word) : Byte := w.extractLsb' 0 8

/-- R84: arg8 is w[15:8]; R85's `b` and `k`. -/
def argField (w : Word) : Byte := w.extractLsb' 8 8

/-- R84: imm16 is w[31:16]; R85's `imm`. -/
def immField (w : Word) : BitVec 16 := w.extractLsb' 16 16

/-- Format N: arg8 and imm16 must be 0. -/
def decodeN (w : Word) (i : Instr) : Option Instr :=
  if argField w = 0#8 ∧ immField w = 0#16 then some i else none

/-- Formats B and K: arg8 is the operand, imm16 must be 0. -/
def decodeBK (w : Word) (f : Byte → Instr) : Option Instr :=
  if immField w = 0#16 then some (f (argField w)) else none

/-- Format I: imm16 is the operand, arg8 must be 0. -/
def decodeI (w : Word) (f : BitVec 16 → Instr) : Option Instr :=
  if argField w = 0#8 then some (f (immField w)) else none

/-- The opcode map read by its op column (R86); `none` is an illegal word (R87). -/
def decode (w : Word) : Option Instr :=
  match opField w with
  | 0x00#8 => decodeN w .nop
  | 0x01#8 => decodeN w .reset
  | 0x02#8 => decodeN w .errclr
  | 0x10#8 => decodeI w .setv
  | 0x11#8 => decodeI w .setfl
  | 0x12#8 => decodeI w .setfh
  | 0x13#8 => decodeI w .setimp
  | 0x14#8 => decodeI w .setch
  | 0x15#8 => decodeI w .setint
  | 0x18#8 => decodeN w .enc
  | 0x20#8 => decodeBK w .ackb
  | 0x21#8 => decodeN w .ackclr
  | 0x22#8 => decodeN w .vack
  | 0x30#8 => decodeBK w .rxb
  | 0x31#8 => decodeN w .rxclr
  | 0x32#8 => decodeI w .rxdrop
  | 0x33#8 => decodeN w .val
  | 0x40#8 => decodeN w .cbat
  | 0x41#8 => decodeN w .ccur
  | 0x42#8 => decodeN w .cmagi
  | 0x43#8 => decodeBK w .cpot
  | 0x44#8 => decodeBK w .cmagv
  | 0x45#8 => decodeBK w .crho
  | 0x4F#8 => decodeN w .call
  | _ => none

/-- The word with the three fields of R84. -/
def wordOf (imm : BitVec 16) (arg op : Byte) : Word := (imm ++ arg ++ op : BitVec 32)

/-- A format N word. -/
def encodeN (op : Byte) : Word := wordOf 0#16 0#8 op

/-- A format B or K word. -/
def encodeBK (op arg : Byte) : Word := wordOf 0#16 arg op

/-- A format I word. -/
def encodeI (op : Byte) (imm : BitVec 16) : Word := wordOf imm 0#8 op

/-- The command word of an instruction (R84, R86). -/
def encode : Instr → Word
  | .nop => encodeN 0x00#8
  | .reset => encodeN 0x01#8
  | .errclr => encodeN 0x02#8
  | .setv imm => encodeI 0x10#8 imm
  | .setfl imm => encodeI 0x11#8 imm
  | .setfh imm => encodeI 0x12#8 imm
  | .setimp imm => encodeI 0x13#8 imm
  | .setch imm => encodeI 0x14#8 imm
  | .setint imm => encodeI 0x15#8 imm
  | .enc => encodeN 0x18#8
  | .ackb b => encodeBK 0x20#8 b
  | .ackclr => encodeN 0x21#8
  | .vack => encodeN 0x22#8
  | .rxb b => encodeBK 0x30#8 b
  | .rxclr => encodeN 0x31#8
  | .rxdrop imm => encodeI 0x32#8 imm
  | .val => encodeN 0x33#8
  | .cbat => encodeN 0x40#8
  | .ccur => encodeN 0x41#8
  | .cmagi => encodeN 0x42#8
  | .cpot k => encodeBK 0x43#8 k
  | .cmagv k => encodeBK 0x44#8 k
  | .crho k => encodeBK 0x45#8 k
  | .call => encodeN 0x4F#8

/-- The command word that the low `nbits` bits of `w` spell; `none` when they do not fit one word (R84). -/
def tableWord (nbits w : Nat) : Option Word :=
  if w % 2 ^ nbits < 2 ^ 32 then some (BitVec.ofNat 32 (w % 2 ^ nbits)) else none

/-- The instruction the decoder reads from a word numbered as the opcode table numbers it. -/
def decodeTableWord (nbits w : Nat) : Option Instr :=
  (tableWord nbits w).bind decode

end Sys2Proof
end

