-- ==== Sys2Proof/Config.lean ====
section
/-! DEFINITION. The one implementation parameter, RX_CAP (`00_scope.md` R8), and the sizes R39 fixes. -/

namespace Sys2Proof.Config

/-- R8: "2054 ≤ RX_CAP": the longest frame, 14 + 8·255. -/
def rxCapMin : Nat := 2054

/-- R8: "RX_CAP ≤ 61440": the size of the read window at 0x1000..0xFFFF. -/
def rxCapMax : Nat := 61440

/-- R8: "The default is RX_CAP = 4096." -/
def rxCapDefault : Nat := 4096

/-- The capacities R8 allows. -/
abbrev LegalRxCap (cap : Nat) : Prop := rxCapMin ≤ cap ∧ cap ≤ rxCapMax

end Sys2Proof.Config
end

