-- ==== Sys2Proof/Machine/State.lean ====
section
/-! DEFINITION. The state of the block (`10_state.md` R22–R36), with the parameter RX_CAP and the host's side of the
two ports, as plain data, and its value after reset (R40, R280). -/

namespace Sys2Proof.Machine

/-- Why a step would stop with a fault. It has no constructor: "The block raises no trap and has no exception
entry" and "No code stops the block or locks it" (R252, R255). Nobody raises one. -/
inductive Fault : Type
  deriving DecidableEq, Repr

/-- Why a step would have no meaning. -/
inductive Refusal where
  /-- Raised by an arm of `exec` whose command has no meaning yet; no arm does. Safe: it proves nothing. -/
  | notModelled (mnemonic : String)
  deriving DecidableEq, Repr

/-- What the host can present to the block between two steps (R7, R280). -/
inductive HostInput where
  /-- The host writes a command word to the command port. -/
  | command (w : Word)
  /-- The host reads the word at an address of the read port. -/
  | read (a : ReadAddr)
  /-- The reset input is asserted. -/
  | resetInput
  deriving DecidableEq, Repr

/-- The registers of one channel k: entry k of the arrays of R32, R35 and R36. -/
structure Channel where
  /-- V_P_RAW[k], signed (R32). -/
  vPRaw : BitVec 28
  /-- V_Q_RAW[k], signed (R32). -/
  vQRaw : BitVec 28
  /-- CH_FLAGS[k]: bit 0 POT_OK, bit 1 MAGV_OK, bit 2 RHO_OK, bit 3 RHO_INV (R36). -/
  flags : BitVec 4
  /-- V_P_MV[k], signed (R35). -/
  vPMv : BitVec 40
  /-- V_Q_MV[k], signed (R35). -/
  vQMv : BitVec 40
  /-- V_MAG[k], unsigned (R35). -/
  vMag : BitVec 40
  /-- RHO_P[k], signed (R35). -/
  rhoP : BitVec 64
  /-- RHO_Q[k], signed (R35). -/
  rhoQ : BitVec 64
  deriving DecidableEq, Repr

/-- Channel entries after reset: "All entries reset to 0" (R32, R35, R36). -/
def Channel.reset : Channel where
  vPRaw := 0
  vQRaw := 0
  flags := 0
  vPMv := 0
  vQMv := 0
  vMag := 0
  rhoP := 0
  rhoQ := 0

/-- The state. Field docstrings give the spec's register and the rule that names it. -/
structure State where
  /-- STATUS: [7:0] CODE, [15:8] LASTOP (R22). -/
  status : BitVec 16
  /-- ERRFLAGS, sticky (R23). -/
  errflags : BitVec 16
  /-- CFG_VOLT, in units of 0.01 V (R24). -/
  cfgVolt : BitVec 16
  /-- CFG_FREQ, Q16.16 (R24). -/
  cfgFreq : BitVec 32
  /-- CFG_IMP (R24). -/
  cfgImp : BitVec 16
  /-- CFG_CH (R24). -/
  cfgCh : BitVec 16
  /-- CFG_INT (R24). -/
  cfgInt : BitVec 16
  /-- CFG_VALID (R25). -/
  cfgValid : Bool
  /-- UX (R25). -/
  ux : BitVec 8
  /-- FX (R25). -/
  fx : BitVec 25
  /-- ENC_CH (R25). -/
  encCh : BitVec 8
  /-- CFRAME[0..9] (R25). -/
  cframe : Vector Byte 10
  /-- ACK_LEN, saturating at 255 (R26). -/
  ackLen : BitVec 8
  /-- ACKBUF[0..10] (R26). -/
  ackbuf : Vector Byte 11
  /-- ACK_OK (R26). -/
  ackOk : Bool
  /-- RUN (R26). -/
  run : Bool
  /-- BOARD_ID (R26). -/
  boardId : BitVec 6
  /-- ACT_VALID (R27). -/
  actValid : Bool
  /-- ACT_CH (R27). -/
  actCh : BitVec 8
  /-- RX[0..RX_LEN−1], oldest byte first; RX_LEN is its length (R28). -/
  rx : List Byte
  /-- FRAME_COUNT (R29). -/
  frameCount : BitVec 32
  /-- REJECT_COUNT (R29). -/
  rejectCount : BitVec 32
  /-- OVF_COUNT (R29). -/
  ovfCount : BitVec 32
  /-- FRAME_VALID (R30). -/
  frameValid : Bool
  /-- FRAME_CH (R30). -/
  frameCh : BitVec 8
  /-- MEAS_COUNT (R31). -/
  measCount : BitVec 14
  /-- REC_BAT_RAW (R31). -/
  recBatRaw : BitVec 14
  /-- EM_BAT_RAW (R31). -/
  emBatRaw : BitVec 14
  /-- I_P_RAW, signed (R31). -/
  iPRaw : BitVec 28
  /-- I_Q_RAW, signed (R31). -/
  iQRaw : BitVec 28
  /-- REC_BAT_MV (R33). -/
  recBatMv : BitVec 32
  /-- EM_BAT_MV (R33). -/
  emBatMv : BitVec 32
  /-- I_P_MA, signed (R33). -/
  iPMa : BitVec 32
  /-- I_Q_MA, signed (R33). -/
  iQMa : BitVec 32
  /-- I_MAG (R33). -/
  iMag : BitVec 32
  /-- CVT_FLAGS: bit 0 BAT_OK, bit 1 CUR_OK, bit 2 MAGI_OK (R34). -/
  cvtFlags : BitVec 3
  /-- The per-channel registers, k = 0..254 (R32, R35, R36). -/
  channels : Vector Channel 255
  /-- RX_CAP, the implementation parameter (R8); no command writes it. Held here so that statements quantify over
  it. DESIGN CHOICE, log entry 1. -/
  rxCap : Nat
  /-- The MODEL's own: the host's stimuli still to come, the next one first (R7). DESIGN CHOICE, log entry 2. -/
  hostInputs : List HostInput
  /-- The MODEL's own: the index into the host's command list (R21). DESIGN CHOICE, log entry 2. -/
  hostPc : Nat
  /-- The MODEL's own: the word the read port answered last (R7, R38). DESIGN CHOICE, log entry 2. -/
  hostRead : Option ReadData
  deriving DecidableEq, Repr

/-- The machine right after reset: every register of R22–R36 is 0 and the buffer is empty (R40, R280). RX_CAP has
its default (R8), and the host has presented nothing. -/
def State.reset : State where
  status := 0
  errflags := 0
  cfgVolt := 0
  cfgFreq := 0
  cfgImp := 0
  cfgCh := 0
  cfgInt := 0
  cfgValid := false
  ux := 0
  fx := 0
  encCh := 0
  cframe := Vector.replicate 10 0
  ackLen := 0
  ackbuf := Vector.replicate 11 0
  ackOk := false
  run := false
  boardId := 0
  actValid := false
  actCh := 0
  rx := []
  frameCount := 0
  rejectCount := 0
  ovfCount := 0
  frameValid := false
  frameCh := 0
  measCount := 0
  recBatRaw := 0
  emBatRaw := 0
  iPRaw := 0
  iQRaw := 0
  recBatMv := 0
  emBatMv := 0
  iPMa := 0
  iQMa := 0
  iMag := 0
  cvtFlags := 0
  channels := Vector.replicate 255 Channel.reset
  rxCap := Config.rxCapDefault
  hostInputs := []
  hostPc := 0
  hostRead := none

end Sys2Proof.Machine
end

