-- ==== Sys2Proof/Machine/Flags.lean ====
section
/-! DEFINITION. Result codes and every flag computation: STATUS and ERRFLAGS (`60_exceptions.md` R250, R251),
CVT_FLAGS and CH_FLAGS (`10_state.md` R34, R36). -/

namespace Sys2Proof.Machine

/-- The result codes of R250, by name. -/
inductive ResultCode where
  | ok
  | cfgParam
  | ackMismatch
  | noConfig
  | frameShort
  | frameRejected
  | noFrame
  | badChannel
  | rxOverflow
  | rhoUndefined
  | illegalCmd
  deriving DecidableEq, Repr

/-- R250's code column. -/
def codeNumber : ResultCode → Nat
  | .ok => 0
  | .cfgParam => 1
  | .ackMismatch => 2
  | .noConfig => 3
  | .frameShort => 4
  | .frameRejected => 5
  | .noFrame => 6
  | .badChannel => 7
  | .rxOverflow => 8
  | .rhoUndefined => 9
  | .illegalCmd => 10

/-- R22: the STATUS word with LASTOP in [15:8] and CODE in [7:0]. -/
def statusWord (op : Byte) (c : ResultCode) : BitVec 16 :=
  op ++ BitVec.ofNat 8 (codeNumber c)

/-- CODE = STATUS[7:0] (R22). -/
def statusCode (s : State) : Byte := s.status.extractLsb' 0 8

/-- LASTOP = STATUS[15:8] (R22). -/
def statusLastOp (s : State) : Byte := s.status.extractLsb' 8 8

/-- R251: "if code != 0: ERRFLAGS[code] <- 1". -/
def raiseFlag (e : BitVec 16) (c : ResultCode) : BitVec 16 :=
  if codeNumber c = 0 then e else e ||| (1#16 <<< codeNumber c)

/-- BAT_OK, CVT_FLAGS bit 0 (R34). -/
def batOk : BitVec 3 := 0b001#3

/-- CUR_OK, CVT_FLAGS bit 1 (R34). -/
def curOk : BitVec 3 := 0b010#3

/-- MAGI_OK, CVT_FLAGS bit 2 (R34). -/
def magiOk : BitVec 3 := 0b100#3

/-- POT_OK, CH_FLAGS[k] bit 0 (R36). -/
def potOk : BitVec 4 := 0b0001#4

/-- MAGV_OK, CH_FLAGS[k] bit 1 (R36). -/
def magvOk : BitVec 4 := 0b0010#4

/-- CH_FLAGS[k] after CRHO: RHO_OK (bit 2) set, RHO_INV (bit 3) set exactly when both currents are zero (R36,
R206); the other two bits stay. -/
def rhoFlags (f : BitVec 4) (undef : Bool) : BitVec 4 :=
  if undef then f ||| 0b1100#4 else (f ||| 0b0100#4) &&& 0b0111#4

end Sys2Proof.Machine
end

