-- ==== Sys2Proof/Machine/Operands.lean ====
section
/-! DEFINITION. How each command's operand meets the state (`30_encoding.md` R85): the halves of CFG_FREQ, RXDROP's
count, the channel index, and the signed and unsigned readings of raw codes (`00_scope.md` R12). -/

namespace Sys2Proof.Machine

/-- R121: `CFG_FREQ[15:0] <- imm`, the high half kept. -/
def withFreqLow (f : BitVec 32) (imm : BitVec 16) : BitVec 32 :=
  f.extractLsb' 16 16 ++ imm

/-- R122: `CFG_FREQ[31:16] <- imm`, the low half kept. -/
def withFreqHigh (f : BitVec 32) (imm : BitVec 16) : BitVec 32 :=
  imm ++ f.extractLsb' 0 16

/-- R172: RXDROP's operand as a number of bytes. -/
def dropCount (imm : BitVec 16) : Nat := imm.toNat

/-- R204–R206's check `k >= FRAME_CH`, negated: the channel index names a channel of the extracted frame. -/
def channelInFrame (s : State) (k : BitVec 8) : Bool :=
  decide (k.toNat < s.frameCh.toNat)

/-- R173: the required length of a measurement frame of N channels. -/
def requiredLength (n : Nat) : Nat := 14 + 8 * n

/-- R27: REQ_LEN reads REQ when ACT_VALID = 1, and 0 otherwise. -/
def reqLen (s : State) : Nat :=
  if s.actValid then requiredLength s.actCh.toNat else 0

/-- R203: S = I_P_RAW² + I_Q_RAW², and R206's `den`. -/
def currentSquares (s : State) : Int :=
  s.iPRaw.toInt ^ 2 + s.iQRaw.toInt ^ 2

/-- R205: V_P_RAW[k]² + V_Q_RAW[k]². -/
def potentialSquares (c : Channel) : Int :=
  c.vPRaw.toInt ^ 2 + c.vQRaw.toInt ^ 2

end Sys2Proof.Machine
end

