-- ==== Sys2Proof/Machine/Ops.lean ====
section
/-! DEFINITION. The operations every command is built from: how a command ends (`60_exceptions.md` R251, R253), the
buffer primitives (`20_memory.md` R67, R69), the channel arrays, reset (R241, R280) and the host's side of the
ports. The block takes no exception and has no return from one (R255, R256): `finish` is all it does about errors. -/

namespace Sys2Proof.Machine

/-- R251: `finish(code)` for a command whose word has w[7:0] = `op`. -/
def finish (op : Byte) (c : ResultCode) (s : State) : State :=
  { s with status := statusWord op c, errflags := raiseFlag s.errflags c }

/-- R253: an illegal word w changes nothing but STATUS and ERRFLAGS, with LASTOP taken from w[7:0]. -/
def illegalCommand (w : Word) (s : State) : State :=
  finish (w.extractLsb' 0 8) .illegalCmd s

/-- R280, R241: every register of R22–R36 at its reset value. RX_CAP and the host's side are no such registers. -/
def resetBlock (s : State) : State :=
  { State.reset with
    rxCap := s.rxCap, hostInputs := s.hostInputs, hostPc := s.hostPc, hostRead := s.hostRead }

/-- R67's `RxAppend`. -/
def rxAppend (b : Byte) (s : State) : State := { s with rx := s.rx ++ [b] }

/-- R67's `RxDropFront`: m = min(n, RX_LEN) bytes leave the front. -/
def rxDropFront (n : Nat) (s : State) : State := { s with rx := s.rx.drop (min n s.rx.length) }

/-- R67's `RxClear`. -/
def rxClear (s : State) : State := { s with rx := [] }

/-- R67's `RxPeek`, with R28's "A read at such an index returns 0" for i ≥ RX_LEN. -/
def rxPeek (rx : List Byte) (i : Nat) : Byte := rx.getD i 0#8

/-- R69: `if ACK_LEN < 11: ACKBUF[ACK_LEN] <- b`. -/
def ackStore (buf : Vector Byte 11) (len : Nat) (b : Byte) : Vector Byte 11 :=
  if h : len < 11 then buf.set len b h else buf

/-- R69's `AckAppend`. -/
def ackAppend (b : Byte) (s : State) : State :=
  { s with
    ackbuf := ackStore s.ackbuf s.ackLen.toNat b
    ackLen := BitVec.ofNat 8 (min (s.ackLen.toNat + 1) 255) }

/-- R69's `AckClear`. -/
def ackClear (s : State) : State := { s with ackbuf := Vector.replicate 11 0#8, ackLen := 0#8 }

/-- Each entry of a list replaced, knowing its index, which starts at `i`. -/
def mapFrom (f : Nat → Channel → Channel) : Nat → List Channel → List Channel
  | _, [] => []
  | i, c :: cs => f i c :: mapFrom f (i + 1) cs

/-- The list keeps its length, so that the 255 channels stay 255. -/
theorem length_mapFrom (f : Nat → Channel → Channel) (i : Nat) (cs : List Channel) :
    (mapFrom f i cs).length = cs.length := by
  induction cs generalizing i with
  | nil => rfl
  | cons c cs ih => simp [mapFrom, ih]

/-- The channel arrays with `f k` applied to channel k, for k = 0..254. -/
def mapChannels (f : Nat → Channel → Channel) (v : Vector Channel 255) : Vector Channel 255 :=
  ⟨(mapFrom f 0 v.toList).toArray, by simp [length_mapFrom]⟩

/-- Channel k's registers, for k = 0..254 (R32, R35, R36); no register exists for a larger k. -/
def channelAt (v : Vector Channel 255) (k : Nat) : Channel := v.toList.getD k Channel.reset

/-- `f` applied to the registers of every channel. -/
def withChannels (f : Nat → Channel → Channel) (s : State) : State :=
  { s with channels := mapChannels f s.channels }

/-- `f` applied to the registers of channel k alone. -/
def updateChannel (k : Nat) (f : Channel → Channel) (s : State) : State :=
  withChannels (fun j c => if j = k then f c else c) s

/-- The host presents its next stimulus: `rest` are those still to come. -/
def takeInput (rest : List HostInput) (s : State) : State := { s with hostInputs := rest }

/-- The host presents a command word: its index into its command list advances by 1 (R21). -/
def takeCommand (rest : List HostInput) (s : State) : State :=
  { s with hostInputs := rest, hostPc := s.hostPc + 1 }

/-- The read port answers `d` to the host; no register changes (R38). -/
def answerRead (d : ReadData) (s : State) : State := { s with hostRead := some d }

/-- The host's next stimulus is the command word `w`. -/
def presentCommand (w : Word) (s : State) : State :=
  { s with hostInputs := .command w :: s.hostInputs }

end Sys2Proof.Machine
end

