-- ==== Sys2Proof/Machine/AckVerifier.lean ====
section
/-! DEFINITION. The Acknowledgement Verifier (`42_ack_verifier.md`). -/

namespace Sys2Proof.Machine

/-- ACKB (R150). -/
def execAckb (b : Byte) (s : State) : Host.Outcome State Fault Refusal :=
  .next (finish 0x20#8 .ok (ackAppend b s))

/-- ACKCLR (R151). -/
def execAckclr (s : State) : Host.Outcome State Fault Refusal :=
  .next (finish 0x21#8 .ok (ackClear s))

/-- `AckMatch` (R153): the length is 11 and bytes 0–9 equal CFRAME. -/
def ackMatch (s : State) : Bool :=
  decide (s.ackLen = 11#8 ∧ ∀ i : Fin 10, s.ackbuf[i.val] = s.cframe[i.val])

/-- `StatusDecode(s)` (R154): run is bit 0; bit 7 is ignored. -/
def statusRun (b : Byte) : Bool := b.getLsbD 0

/-- `StatusDecode(s)` (R154): boardId is bits [6:1]. -/
def statusBoardId (b : Byte) : BitVec 6 := b.extractLsb' 1 6

/-- VACK's writes on a match (R152). -/
def latchActive (s : State) : State :=
  { s with
    run := statusRun s.ackbuf[10]
    boardId := statusBoardId s.ackbuf[10]
    ackOk := true
    actValid := true
    actCh := s.encCh }

/-- VACK (R152). -/
def execVack (s : State) : Host.Outcome State Fault Refusal :=
  if s.cfgValid = false then .next (finish 0x22#8 .noConfig s)
  else if ackMatch s = false then
    .next (finish 0x22#8 .ackMismatch { s with ackOk := false, actValid := false })
  else .next (finish 0x22#8 .ok (latchActive s))

end Sys2Proof.Machine
end

