-- ==== Sys2Proof/Machine/Control.lean ====
section
/-! DEFINITION. The control commands (`45_control.md`). -/

namespace Sys2Proof.Machine

/-- NOP (R240). -/
def execNop (s : State) : Host.Outcome State Fault Refusal :=
  .next (finish 0x00#8 .ok s)

/-- RESET (R241): the effect of the reset input; STATUS is left 0. -/
def execReset (s : State) : Host.Outcome State Fault Refusal :=
  .next (resetBlock s)

/-- ERRCLR (R242). -/
def execErrclr (s : State) : Host.Outcome State Fault Refusal :=
  .next (finish 0x02#8 .ok { s with errflags := 0#16 })

end Sys2Proof.Machine
end

