-- ==== Sys2Proof/Machine/Arith.lean ====
section
/-! DEFINITION. The rounding and square-root primitives of `00_scope.md` R13 and R14, on exact integers (R12). -/

namespace Sys2Proof.Machine

/-- `RNE(a, b)` of R13, for b > 0: a/b to the nearest integer, ties to even. -/
def rne (a b : Int) : Int :=
  let q := a / b
  let r := a - b * q
  if 2 * r < b then q
  else if 2 * r > b then q + 1
  else if q % 2 = 0 then q else q + 1

/-- The root found bit by bit from bit `b − 1` down, kept in `r` while its square stays at most `n`. -/
def isqrtBits (n : Nat) : Nat → Nat → Nat
  | 0, r => r
  | b + 1, r =>
    if (r + 2 ^ b) * (r + 2 ^ b) ≤ n then isqrtBits n b (r + 2 ^ b) else isqrtBits n b r

/-- `ISQRT(n)` of R14: the largest integer r with r·r ≤ n. -/
def isqrt (n : Nat) : Nat :=
  isqrtBits n (n.log2 / 2 + 1) 0

/-- `RNSQRT(A, B)` of R14, for B > 0: the nearest integer to sqrt(A/B), ties to even. -/
def rnsqrt (a b : Nat) : Nat :=
  let r := isqrt (a / b)
  let c : Int := 4 * (a : Int) - (b : Int) * (2 * (r : Int) + 1) ^ 2
  if c < 0 then r
  else if c > 0 then r + 1
  else if r % 2 = 0 then r else r + 1

end Sys2Proof.Machine
end

