-- ==== Sys2Proof/Machine/Converter.lean ====
section
/-! DEFINITION. The Physical Value Converter (`44_converter.md` R200–R207). Each output is one exact rational of the
raw codes, rounded once; the bodies of the seven commands are shared with CALL. A constant factor is written on the
left of its product, so that the kernel never unfolds a product along a large constant. -/

namespace Sys2Proof.Machine

/-- R201: a battery code in mV × 2^16; 1199308800 = 18300 · 2^16. -/
def batteryMv (raw : BitVec 14) : BitVec 32 :=
  BitVec.ofInt 32 (rne (1199308800 * (raw.toNat : Int)) 16383)

/-- R202: a current code in mA × 2^16. -/
def currentMa (raw : BitVec 28) : BitVec 32 :=
  BitVec.ofInt 32 (rne (15625 * raw.toInt) 1408)

/-- R203: the current magnitude in mA × 2^16, from S = I_P_RAW² + I_Q_RAW². -/
def currentMag (sq : Int) : BitVec 32 :=
  BitVec.ofNat 32 (rnsqrt (244140625 * sq.toNat) 1982464)

/-- R204: a potential code in mV × 2^25, exact. -/
def potentialMv (raw : BitVec 28) : BitVec 40 :=
  BitVec.ofInt 40 (625 * raw.toInt)

/-- R205: the potential magnitude in mV × 2^25, from V_P_RAW² + V_Q_RAW². -/
def potentialMag (sq : Int) : BitVec 40 :=
  BitVec.ofNat 40 (rnsqrt (390625 * sq.toNat) 1)

/-- R206: a resistivity in Ohm·m × 2^16; 7208960 = 110 · 2^16. -/
def resistivity (num den : Int) : BitVec 64 :=
  BitVec.ofInt 64 (rne (7208960 * num) den)

/-- The body of CBAT (R201). -/
def batBody (s : State) : State :=
  { s with
    recBatMv := batteryMv s.recBatRaw
    emBatMv := batteryMv s.emBatRaw
    cvtFlags := s.cvtFlags ||| batOk }

/-- The body of CCUR (R202). -/
def curBody (s : State) : State :=
  { s with
    iPMa := currentMa s.iPRaw
    iQMa := currentMa s.iQRaw
    cvtFlags := s.cvtFlags ||| curOk }

/-- The body of CMAGI (R203). -/
def magiBody (s : State) : State :=
  { s with
    iMag := currentMag (currentSquares s)
    cvtFlags := s.cvtFlags ||| magiOk }

/-- The body of CPOT on its channel (R204). -/
def potBody (c : Channel) : Channel :=
  { c with
    vPMv := potentialMv c.vPRaw
    vQMv := potentialMv c.vQRaw
    flags := c.flags ||| potOk }

/-- The body of CMAGV on its channel (R205). -/
def magvBody (c : Channel) : Channel :=
  { c with
    vMag := potentialMag (potentialSquares c)
    flags := c.flags ||| magvOk }

/-- The body of CRHO on its channel (R206), with the frame's current codes; with both zero the outputs are the
placeholder 0 and RHO_INV is set. -/
def rhoBody (ip iq : Int) (c : Channel) : Channel :=
  if ip ^ 2 + iq ^ 2 = 0 then
    { c with rhoP := 0#64, rhoQ := 0#64, flags := rhoFlags c.flags true }
  else
    { c with
      rhoP := resistivity (c.vPRaw.toInt * ip + c.vQRaw.toInt * iq) (ip ^ 2 + iq ^ 2)
      rhoQ := resistivity (c.vQRaw.toInt * ip - c.vPRaw.toInt * iq) (ip ^ 2 + iq ^ 2)
      flags := rhoFlags c.flags false }

/-- The bodies of CPOT, CMAGV and CRHO on one channel, in CALL's order (R207). -/
def channelBody (ip iq : Int) (c : Channel) : Channel := rhoBody ip iq (magvBody (potBody c))

/-- CALL's loop over the channels k = 0..FRAME_CH−1 (R207). -/
def allChannels (s : State) : State :=
  withChannels
    (fun k c => if k < s.frameCh.toNat then channelBody s.iPRaw.toInt s.iQRaw.toInt c else c) s

/-- The code of a finished CRHO (R206). -/
def rhoCode (s : State) : ResultCode :=
  if currentSquares s = 0 then .rhoUndefined else .ok

/-- The code of a finished CALL (R207): `undef` is set by some k < FRAME_CH, all of which share den. -/
def callCode (s : State) : ResultCode :=
  if 0 < s.frameCh.toNat ∧ currentSquares s = 0 then .rhoUndefined else .ok

/-- CBAT (R201). -/
def execCbat (s : State) : Host.Outcome State Fault Refusal :=
  if s.frameValid = false then .next (finish 0x40#8 .noFrame s)
  else .next (finish 0x40#8 .ok (batBody s))

/-- CCUR (R202). -/
def execCcur (s : State) : Host.Outcome State Fault Refusal :=
  if s.frameValid = false then .next (finish 0x41#8 .noFrame s)
  else .next (finish 0x41#8 .ok (curBody s))

/-- CMAGI (R203). -/
def execCmagi (s : State) : Host.Outcome State Fault Refusal :=
  if s.frameValid = false then .next (finish 0x42#8 .noFrame s)
  else .next (finish 0x42#8 .ok (magiBody s))

/-- CPOT k (R204). -/
def execCpot (k : BitVec 8) (s : State) : Host.Outcome State Fault Refusal :=
  if s.frameValid = false then .next (finish 0x43#8 .noFrame s)
  else if channelInFrame s k = false then .next (finish 0x43#8 .badChannel s)
  else .next (finish 0x43#8 .ok (updateChannel k.toNat potBody s))

/-- CMAGV k (R205). -/
def execCmagv (k : BitVec 8) (s : State) : Host.Outcome State Fault Refusal :=
  if s.frameValid = false then .next (finish 0x44#8 .noFrame s)
  else if channelInFrame s k = false then .next (finish 0x44#8 .badChannel s)
  else .next (finish 0x44#8 .ok (updateChannel k.toNat magvBody s))

/-- CRHO k (R206). -/
def execCrho (k : BitVec 8) (s : State) : Host.Outcome State Fault Refusal :=
  if s.frameValid = false then .next (finish 0x45#8 .noFrame s)
  else if channelInFrame s k = false then .next (finish 0x45#8 .badChannel s)
  else .next (finish 0x45#8 (rhoCode s)
    (updateChannel k.toNat (rhoBody s.iPRaw.toInt s.iQRaw.toInt) s))

/-- CALL (R207). -/
def execCall (s : State) : Host.Outcome State Fault Refusal :=
  if s.frameValid = false then .next (finish 0x4F#8 .noFrame s)
  else .next (finish 0x4F#8 (callCode s) (allChannels (magiBody (curBody (batBody s)))))

end Sys2Proof.Machine
end

