-- ==== Sys2Proof/Machine/Codec.lean ====
section
/-! DEFINITION. The Frame Codec (`40_codec.md` R100–R106) over byte sequences, with the tag layout of `30_encoding.md`
R83. `EncField` and the frame built from it are what a conforming device sends; no command executes them (R104). -/

namespace Sys2Proof.Machine

/-- `G7(v, j)` (R100). -/
def g7 (v j : Nat) : Nat := (v >>> (7 * j)) &&& 0x7F

/-- `DecU(B, o, n)` (R101). -/
def decU (bs : List Byte) (o : Nat) : Nat → Nat
  | 0 => 0
  | n + 1 => decU bs o n + ((rxPeek bs (o + n)).toNat &&& 0x7F) <<< (7 * n)

/-- `DecU14(B, o)` (R102). -/
def decU14 (bs : List Byte) (o : Nat) : Nat := decU bs o 2

/-- `DecS28(B, o)` (R103): subtract 2^28 above 2^27 − 1. -/
def decS28 (bs : List Byte) (o : Nat) : Int :=
  let raw := decU bs o 4
  if raw > 2 ^ 27 - 1 then (raw : Int) - 2 ^ 28 else raw

/-- `EncField(v, n)` (R104): the tag bit on the first byte only. -/
def encField (v : Int) (n : Nat) : List Byte :=
  let u := (if n = 4 ∧ v < 0 then v + 2 ^ 28 else v).toNat
  (List.range n).map fun i => BitVec.ofNat 8 (if i = 0 then 0x80 ||| g7 u 0 else g7 u i)

/-- `START(N)` (R83): the offsets of the first byte of each field. -/
def startOffsets (n : Nat) : List Nat :=
  [0, 2, 4, 6, 10] ++ (List.range n).map (fun k => 14 + 8 * k) ++ (List.range n).map (fun k => 18 + 8 * k)

/-- `expected_tag(i, N)` (R83). -/
def expectedTag (i n : Nat) : Bool := (startOffsets n).contains i

/-- `TagOK(B, N)` (R105): bit 7 of each of the first 14 + 8·N bytes is the expected tag. -/
def tagOk (bs : List Byte) (n : Nat) : Bool :=
  (List.range (requiredLength n)).all fun i => (rxPeek bs i).getLsbD 7 == expectedTag i n

/-- The field record of a MeasureFrame (R82, R106); the two lists have one entry for each channel. -/
structure FrameFields where
  measureCount : Nat
  recBatteryCode : Nat
  emBatteryCode : Nat
  phaseCurrentCode : Int
  quadCurrentCode : Int
  phasePotentialCode : List Int
  quadPotentialCode : List Int
  deriving DecidableEq, Repr

/-- `Extract(B, N)` (R106), at the offsets of R82. -/
def extract (bs : List Byte) (n : Nat) : FrameFields where
  measureCount := decU14 bs 0
  recBatteryCode := decU14 bs 2
  emBatteryCode := decU14 bs 4
  phaseCurrentCode := decS28 bs 6
  quadCurrentCode := decS28 bs 10
  phasePotentialCode := (List.range n).map fun k => decS28 bs (14 + 8 * k)
  quadPotentialCode := (List.range n).map fun k => decS28 bs (18 + 8 * k)

/-- The bytes a conforming device sends for one channel: its phase field, then its quadrature field (R82). -/
def encChannel (vp vq : Int) : List Byte := encField vp 4 ++ encField vq 4

/-- The bytes of a conforming MeasureFrame with these fields, in R82's order, each encoded by R104. -/
def encFrame (f : FrameFields) : List Byte :=
  encField f.measureCount 2 ++ encField f.recBatteryCode 2 ++ encField f.emBatteryCode 2 ++
    encField f.phaseCurrentCode 4 ++ encField f.quadCurrentCode 4 ++
    (List.zipWith encChannel f.phasePotentialCode f.quadPotentialCode).flatten

/-- A 14-bit unsigned field's range (R104, n = 2). -/
abbrev FieldU14 (v : Nat) : Prop := v < 2 ^ 14

/-- A 28-bit signed field's range (R104, n = 4). -/
abbrev FieldS28 (v : Int) : Prop := -2 ^ 27 ≤ v ∧ v < 2 ^ 27

/-- The fields a frame of N channels can carry (R82, R104). -/
def FrameFields.Fits (f : FrameFields) (n : Nat) : Prop :=
  FieldU14 f.measureCount ∧ FieldU14 f.recBatteryCode ∧ FieldU14 f.emBatteryCode ∧
    FieldS28 f.phaseCurrentCode ∧ FieldS28 f.quadCurrentCode ∧
    f.phasePotentialCode.length = n ∧ f.quadPotentialCode.length = n ∧
    (∀ v ∈ f.phasePotentialCode, FieldS28 v) ∧ (∀ v ∈ f.quadPotentialCode, FieldS28 v)

end Sys2Proof.Machine
end

