-- ==== Sys2Proof/Machine/Encoder.lean ====
section
/-! DEFINITION. The Configuration Encoder (`41_config_encoder.md`): the six staging commands, the conversion
functions UxOf and FxOf, CfgCheck, PackFrame and ENC. The constants are those of `00_scope.md` R9 as R126–R128
give them (log entry 8). -/

namespace Sys2Proof.Machine

/-- SETV (R120). -/
def execSetv (imm : BitVec 16) (s : State) : Host.Outcome State Fault Refusal :=
  .next (finish 0x10#8 .ok { s with cfgVolt := imm })

/-- SETFL (R121). -/
def execSetfl (imm : BitVec 16) (s : State) : Host.Outcome State Fault Refusal :=
  .next (finish 0x11#8 .ok { s with cfgFreq := withFreqLow s.cfgFreq imm })

/-- SETFH (R122). -/
def execSetfh (imm : BitVec 16) (s : State) : Host.Outcome State Fault Refusal :=
  .next (finish 0x12#8 .ok { s with cfgFreq := withFreqHigh s.cfgFreq imm })

/-- SETIMP (R123). -/
def execSetimp (imm : BitVec 16) (s : State) : Host.Outcome State Fault Refusal :=
  .next (finish 0x13#8 .ok { s with cfgImp := imm })

/-- SETCH (R124). -/
def execSetch (imm : BitVec 16) (s : State) : Host.Outcome State Fault Refusal :=
  .next (finish 0x14#8 .ok { s with cfgCh := imm })

/-- SETINT (R125). -/
def execSetint (imm : BitVec 16) (s : State) : Host.Outcome State Fault Refusal :=
  .next (finish 0x15#8 .ok { s with cfgInt := imm })

/-- `UxOf(vc)` (R126), for vc ≥ 1. -/
def uxOf (vc : Nat) : Int := rne (32 * (9000000 - 458 * (vc : Int))) (625 * (vc : Int))

/-- `FxOf(fq)` (R127). -/
def fxOf (fq : Nat) : Int := rne (128 * (fq : Int)) 15625

/-- `CfgCheck` (R128), step by step; `none` is its `fail`. R131: both post-conversion checks are carried. -/
def cfgCheck (vc fq imp ch it : Nat) : Option (Int × Int) :=
  if ¬ (1655 ≤ vc ∧ vc ≤ 19651) then none
  else if uxOf vc > 255 then none
  else if ¬ fq ≤ 4095934464 then none
  else if fxOf fq > 33554431 then none
  else if imp > 127 ∨ ch > 255 ∨ it > 16383 then none
  else some (uxOf vc, fxOf fq)

/-- `PackFrame` (R129), the layout of R80. -/
def packFrame (ux fx imp ch it : Nat) : Vector Byte 10 :=
  #v[BitVec.ofNat 8 (0x81 ||| ((ux &&& 0x3F) <<< 1)),
     BitVec.ofNat 8 ((ux &&& 0xC0) >>> 6),
     BitVec.ofNat 8 (g7 fx 0),
     BitVec.ofNat 8 (g7 fx 1),
     BitVec.ofNat 8 (g7 fx 2),
     BitVec.ofNat 8 (g7 fx 3),
     BitVec.ofNat 8 (imp &&& 0x7F),
     BitVec.ofNat 8 (ch &&& 0x7F),
     BitVec.ofNat 8 (g7 it 0),
     BitVec.ofNat 8 (g7 it 1)]

/-- CfgCheck on the staged registers, as ENC reads them (R130). -/
def stagedCheck (s : State) : Option (Int × Int) :=
  cfgCheck s.cfgVolt.toNat s.cfgFreq.toNat s.cfgImp.toNat s.cfgCh.toNat s.cfgInt.toNat

/-- ENC's writes when CfgCheck passes with (ux, fx) (R130). -/
def latchConfig (ux fx : Int) (s : State) : State :=
  { s with
    ux := BitVec.ofInt 8 ux
    fx := BitVec.ofInt 25 fx
    encCh := s.cfgCh.setWidth 8
    cframe := packFrame ux.toNat fx.toNat s.cfgImp.toNat s.cfgCh.toNat s.cfgInt.toNat
    cfgValid := true }

/-- ENC (R130). -/
def execEnc (s : State) : Host.Outcome State Fault Refusal :=
  match stagedCheck s with
  | none => .next (finish 0x18#8 .cfgParam { s with ackOk := false, cfgValid := false })
  | some (ux, fx) => .next (finish 0x18#8 .ok (latchConfig ux fx { s with ackOk := false }))

end Sys2Proof.Machine
end

