-- ==== Sys2Proof/Machine/Validator.lean ====
section
/-! DEFINITION. The reception buffer's commands and the Measurement Frame Validator (`43_frame_validator.md`). -/

namespace Sys2Proof.Machine

/-- RXB (R170). -/
def execRxb (b : Byte) (s : State) : Host.Outcome State Fault Refusal :=
  if s.rx.length = s.rxCap then
    .next (finish 0x30#8 .rxOverflow { s with ovfCount := s.ovfCount + 1#32 })
  else .next (finish 0x30#8 .ok (rxAppend b s))

/-- RXCLR (R171). -/
def execRxclr (s : State) : Host.Outcome State Fault Refusal :=
  .next (finish 0x31#8 .ok (rxClear s))

/-- RXDROP (R172). -/
def execRxdrop (imm : BitVec 16) (s : State) : Host.Outcome State Fault Refusal :=
  .next (finish 0x32#8 .ok (rxDropFront (dropCount imm) s))

/-- The three answers of `Verdict` (R174). -/
inductive FrameVerdict where
  | short
  | rejected
  | valid
  deriving DecidableEq, Repr

/-- `Verdict(RX, RX_LEN, N)` (R174): the length check comes first. -/
def verdict (rx : List Byte) (n : Nat) : FrameVerdict :=
  if rx.length < requiredLength n then .short
  else if tagOk rx n = false then .rejected
  else .valid

/-- The source's buffer states (R175). Candidate is the union of Valid and Rejected, `isCandidate`. -/
inductive BufferState where
  | empty
  | accumulating
  | validCandidate
  | rejectedCandidate
  deriving DecidableEq, Repr

/-- R175's table, with REQ for N channels. -/
def bufferState (rx : List Byte) (n : Nat) : BufferState :=
  if rx.length = 0 then .empty
  else match verdict rx n with
    | .short => .accumulating
    | .rejected => .rejectedCandidate
    | .valid => .validCandidate

/-- R175: Candidate is RX_LEN ≥ REQ. -/
def isCandidate (rx : List Byte) (n : Nat) : Bool := decide (requiredLength n ≤ rx.length)

/-- R176: channel k's raw codes from the field record for k < N, and CH_FLAGS[k] cleared for every k. -/
def loadChannel (f : FrameFields) (n k : Nat) (c : Channel) : Channel :=
  if k < n then
    { c with
      vPRaw := BitVec.ofInt 28 (f.phasePotentialCode.getD k 0)
      vQRaw := BitVec.ofInt 28 (f.quadPotentialCode.getD k 0)
      flags := 0#4 }
  else { c with flags := 0#4 }

/-- VAL's writes when the verdict is VALID (R176). -/
def loadFrame (f : FrameFields) (s : State) : State :=
  { s with
    measCount := BitVec.ofNat 14 f.measureCount
    recBatRaw := BitVec.ofNat 14 f.recBatteryCode
    emBatRaw := BitVec.ofNat 14 f.emBatteryCode
    iPRaw := BitVec.ofInt 28 f.phaseCurrentCode
    iQRaw := BitVec.ofInt 28 f.quadCurrentCode
    channels := mapChannels (loadChannel f s.actCh.toNat) s.channels
    frameValid := true
    frameCh := s.actCh
    cvtFlags := 0#3
    frameCount := s.frameCount + 1#32 }

/-- VAL (R176). It never changes the buffer. -/
def execVal (s : State) : Host.Outcome State Fault Refusal :=
  if s.actValid = false then .next (finish 0x33#8 .noConfig s)
  else
    match verdict s.rx s.actCh.toNat with
    | .short => .next (finish 0x33#8 .frameShort s)
    | .rejected => .next (finish 0x33#8 .frameRejected { s with rejectCount := s.rejectCount + 1#32 })
    | .valid => .next (finish 0x33#8 .ok (loadFrame (extract s.rx s.actCh.toNat) s))

end Sys2Proof.Machine
end

