-- ==== Sys2Proof/Machine/Dispatch.lean ====
section
/-! DEFINITION. One arm for each command, calling its meaning. -/

namespace Sys2Proof.Machine

def exec (i : Instr) (s : State) : Host.Outcome State Fault Refusal :=
  match i with
  | .nop => Sys2Proof.Machine.execNop s
  | .reset => Sys2Proof.Machine.execReset s
  | .errclr => Sys2Proof.Machine.execErrclr s
  | .setv imm => Sys2Proof.Machine.execSetv imm s
  | .setfl imm => Sys2Proof.Machine.execSetfl imm s
  | .setfh imm => Sys2Proof.Machine.execSetfh imm s
  | .setimp imm => Sys2Proof.Machine.execSetimp imm s
  | .setch imm => Sys2Proof.Machine.execSetch imm s
  | .setint imm => Sys2Proof.Machine.execSetint imm s
  | .enc => Sys2Proof.Machine.execEnc s
  | .ackb b => Sys2Proof.Machine.execAckb b s
  | .ackclr => Sys2Proof.Machine.execAckclr s
  | .vack => Sys2Proof.Machine.execVack s
  | .rxb b => Sys2Proof.Machine.execRxb b s
  | .rxclr => Sys2Proof.Machine.execRxclr s
  | .rxdrop imm => Sys2Proof.Machine.execRxdrop imm s
  | .val => Sys2Proof.Machine.execVal s
  | .cbat => Sys2Proof.Machine.execCbat s
  | .ccur => Sys2Proof.Machine.execCcur s
  | .cmagi => Sys2Proof.Machine.execCmagi s
  | .cpot k => Sys2Proof.Machine.execCpot k s
  | .cmagv k => Sys2Proof.Machine.execCmagv k s
  | .crho k => Sys2Proof.Machine.execCrho k s
  | .call => Sys2Proof.Machine.execCall s

end Sys2Proof.Machine
end

