-- ==== Sys2Proof/Machine/ReadPort.lean ====
section
/-! DEFINITION. The register read port (`10_state.md` R38, R39; `20_memory.md` R62, R65). -/

namespace Sys2Proof.Machine

/-- R62: byte i of a group at bits [8i+7:8i], as a number. -/
def packBytes : List Byte → Nat
  | [] => 0
  | b :: bs => b.toNat + 256 * packBytes bs

/-- A group of at most 8 bytes as one read word, unused high bits 0 (R38). -/
def packedWord (bs : List Byte) : ReadData := BitVec.ofNat 64 (packBytes bs)

/-- One bit as a read word. -/
def bitWord (b : Bool) : ReadData := (BitVec.ofBool b).setWidth 64

/-- An unsigned register as a read word: zero-extended (R38). -/
def zextWord {n : Nat} (v : BitVec n) : ReadData := v.setWidth 64

/-- A signed register as a read word: sign-extended (R38). -/
def sextWord {n : Nat} (v : BitVec n) : ReadData := v.signExtend 64

/-- R39's rows below 0x0100, in its order. -/
def frameMap (s : State) : List (ReadAddr × ReadData) :=
  [(0x0000#16, zextWord s.status),
   (0x0001#16, zextWord s.errflags),
   (0x0002#16, zextWord s.cfgVolt),
   (0x0003#16, zextWord s.cfgFreq),
   (0x0004#16, zextWord s.cfgImp),
   (0x0005#16, zextWord s.cfgCh),
   (0x0006#16, zextWord s.cfgInt),
   (0x0008#16, bitWord s.cfgValid ||| bitWord s.ackOk <<< 1 ||| bitWord s.actValid <<< 2 |||
     bitWord s.frameValid <<< 3),
   (0x0009#16, zextWord s.ux),
   (0x000A#16, zextWord s.fx),
   (0x000B#16, zextWord s.encCh),
   (0x000C#16, packedWord (s.cframe.toList.take 8)),
   (0x000D#16, packedWord (s.cframe.toList.drop 8)),
   (0x0010#16, zextWord s.ackLen),
   (0x0011#16, packedWord (s.ackbuf.toList.take 8)),
   (0x0012#16, packedWord (s.ackbuf.toList.drop 8)),
   (0x0013#16, bitWord s.run ||| zextWord s.boardId <<< 1),
   (0x0014#16, zextWord s.actCh),
   (0x0015#16, BitVec.ofNat 64 (reqLen s)),
   (0x0018#16, BitVec.ofNat 64 s.rx.length),
   (0x0019#16, BitVec.ofNat 64 s.rxCap),
   (0x001A#16, zextWord s.frameCount),
   (0x001B#16, zextWord s.rejectCount),
   (0x001C#16, zextWord s.ovfCount),
   (0x0020#16, zextWord s.frameCh),
   (0x0021#16, zextWord s.measCount),
   (0x0022#16, zextWord s.recBatRaw),
   (0x0023#16, zextWord s.emBatRaw),
   (0x0024#16, sextWord s.iPRaw),
   (0x0025#16, sextWord s.iQRaw),
   (0x0028#16, zextWord s.cvtFlags),
   (0x0029#16, zextWord s.recBatMv),
   (0x002A#16, zextWord s.emBatMv),
   (0x002B#16, sextWord s.iPMa),
   (0x002C#16, sextWord s.iQMa),
   (0x002D#16, zextWord s.iMag)]

/-- R39's rows 0x0100 + k to 0x0800 + k: page p of channel registers `c`; other pages are not listed. -/
def channelWord (c : Channel) : Nat → ReadData
  | 1 => sextWord c.vPRaw
  | 2 => sextWord c.vQRaw
  | 3 => zextWord c.flags
  | 4 => sextWord c.vPMv
  | 5 => sextWord c.vQMv
  | 6 => zextWord c.vMag
  | 7 => zextWord c.rhoP
  | 8 => zextWord c.rhoQ
  | _ => 0#64

/-- R39's channel pages: k = 255 reads 0. -/
def channelPage (s : State) (p k : Nat) : ReadData :=
  if k < 255 then channelWord (channelAt s.channels k) p else 0#64

/-- A read of the word address `a` (R38, R39); an address the map does not list reads 0 (R65). -/
def readPort (s : State) (a : ReadAddr) : ReadData :=
  if a.toNat < 0x0100 then ((frameMap s).lookup a).getD 0#64
  else if a.toNat < 0x1000 then channelPage s (a.toNat / 0x100) (a.toNat % 0x100)
  else zextWord (rxPeek s.rx (a.toNat - 0x1000))

end Sys2Proof.Machine
end

