-- ==== Sys2Proof/Machine/Step.lean ====
section
/-! DEFINITION. One step: the host's next stimulus is presented to the block (`00_scope.md` R7, R16). -/

namespace Sys2Proof.Machine

/-- A command word is executed as one atomic step (R16): decoded first, and illegal words answered (R87, R254). -/
def stepCommand (w : Word) (s : State) : Host.Outcome State Fault Refusal :=
  match decode w with
  | some i => exec i s
  | none => .next (illegalCommand w s)

/-- The step: with no stimulus the block holds its state (R265). -/
def step (s : State) : Host.Outcome State Fault Refusal :=
  match s.hostInputs with
  | [] => .next s
  | .command w :: rest => stepCommand w (takeCommand rest s)
  | .read a :: rest => .next (answerRead (readPort s a) (takeInput rest s))
  | .resetInput :: rest => .next (resetBlock (takeInput rest s))

/-- `s` with this command word as the host's next stimulus. -/
def State.withFetchWord (s : State) (nbits w : Nat) : State :=
  presentCommand (BitVec.ofNat 32 (w % 2 ^ nbits)) s

end Sys2Proof.Machine
end

