-- ==== Sys2Proof/Machine/Assembler.lean ====
section
/-! DEFINITION. The assembler syntax (`30_encoding.md` R89) and the pseudo-instructions (R90). What R89 leaves open
(letter case, blanks, separators, the base of each operand) is log entry 6. -/

namespace Sys2Proof.Machine

/-- The mnemonics of R86, then the pseudo-instructions of R90. -/
inductive AsmOp where
  | nop | reset | errclr
  | setv | setfl | setfh | setimp | setch | setint | enc
  | ackb | ackclr | vack
  | rxb | rxclr | rxdrop | val
  | cbat | ccur | cmagi | cpot | cmagv | crho | call
  | setf | setfi | rxbs | ackbs | config
  deriving DecidableEq, Repr

/-- A source line: a mnemonic and its operands. -/
structure AsmLine where
  op : AsmOp
  args : List Nat
  deriving DecidableEq, Repr

/-- Every mnemonic with its spelling. -/
def asmNames : List (String × AsmOp) :=
  [("NOP", .nop), ("RESET", .reset), ("ERRCLR", .errclr), ("SETV", .setv), ("SETFL", .setfl),
   ("SETFH", .setfh), ("SETIMP", .setimp), ("SETCH", .setch), ("SETINT", .setint), ("ENC", .enc),
   ("ACKB", .ackb), ("ACKCLR", .ackclr), ("VACK", .vack), ("RXB", .rxb), ("RXCLR", .rxclr),
   ("RXDROP", .rxdrop), ("VAL", .val), ("CBAT", .cbat), ("CCUR", .ccur), ("CMAGI", .cmagi),
   ("CPOT", .cpot), ("CMAGV", .cmagv), ("CRHO", .crho), ("CALL", .call)] ++
  [("SETF", .setf), ("SETFI", .setfi), ("RXBS", .rxbs), ("ACKBS", .ackbs), ("CONFIG", .config)]

/-- R89: format N takes no operand. -/
def asmN (args : List Nat) (i : Instr) : Option (List Instr) :=
  match args with
  | [] => some [i]
  | _ => none

/-- R89: formats B and K take one operand from 0 to 255. -/
def asmBK (args : List Nat) (f : Byte → Instr) : Option (List Instr) :=
  match args with
  | [v] => if v ≤ 255 then some [f (BitVec.ofNat 8 v)] else none
  | _ => none

/-- R89: format I takes one operand from 0 to 65535. -/
def asmI (args : List Nat) (f : BitVec 16 → Instr) : Option (List Instr) :=
  match args with
  | [v] => if v ≤ 65535 then some [f (BitVec.ofNat 16 v)] else none
  | _ => none

/-- R90: `SETF q`, where q is 32 bits. -/
def asmSetf (args : List Nat) : Option (List Instr) :=
  match args with
  | [q] =>
    if q < 2 ^ 32 then some [.setfl (BitVec.ofNat 16 q), .setfh (BitVec.ofNat 16 (q / 2 ^ 16))] else none
  | _ => none

/-- R90: `SETFI n`, n from 0 to 65535. -/
def asmSetfi (args : List Nat) : Option (List Instr) :=
  match args with
  | [n] => if n ≤ 65535 then some [.setfl 0#16, .setfh (BitVec.ofNat 16 n)] else none
  | _ => none

/-- R90: `RXBS b0, …, bm` and `ACKBS b0, …, bm`: one command for each byte, in order. -/
def asmBytes (args : List Nat) (f : Byte → Instr) : Option (List Instr) :=
  if args ≠ [] ∧ ∀ v ∈ args, v ≤ 255 then some (args.map fun v => f (BitVec.ofNat 8 v)) else none

/-- R90: `CONFIG v, q, i, c, n` is `SETV v; SETF q; SETIMP i; SETCH c; SETINT n; ENC`. -/
def asmConfig (args : List Nat) : Option (List Instr) :=
  match args with
  | [v, q, i, c, n] => do
    let sv ← asmI [v] .setv
    let sf ← asmSetf [q]
    let si ← asmI [i] .setimp
    let sc ← asmI [c] .setch
    let sn ← asmI [n] .setint
    return sv ++ sf ++ si ++ sc ++ sn ++ [.enc]
  | _ => none

/-- The commands a line stands for; `none` is R89's assembler error. -/
def lineInstrs (l : AsmLine) : Option (List Instr) :=
  match l.op with
  | .nop => asmN l.args .nop
  | .reset => asmN l.args .reset
  | .errclr => asmN l.args .errclr
  | .setv => asmI l.args .setv
  | .setfl => asmI l.args .setfl
  | .setfh => asmI l.args .setfh
  | .setimp => asmI l.args .setimp
  | .setch => asmI l.args .setch
  | .setint => asmI l.args .setint
  | .enc => asmN l.args .enc
  | .ackb => asmBK l.args .ackb
  | .ackclr => asmN l.args .ackclr
  | .vack => asmN l.args .vack
  | .rxb => asmBK l.args .rxb
  | .rxclr => asmN l.args .rxclr
  | .rxdrop => asmI l.args .rxdrop
  | .val => asmN l.args .val
  | .cbat => asmN l.args .cbat
  | .ccur => asmN l.args .ccur
  | .cmagi => asmN l.args .cmagi
  | .cpot => asmBK l.args .cpot
  | .cmagv => asmBK l.args .cmagv
  | .crho => asmBK l.args .crho
  | .call => asmN l.args .call
  | .setf => asmSetf l.args
  | .setfi => asmSetfi l.args
  | .rxbs => asmBytes l.args .rxb
  | .ackbs => asmBytes l.args .ackb
  | .config => asmConfig l.args

/-- The command words of a line, or an assembler error. -/
def assembleLine (l : AsmLine) : Option (List Word) := (lineInstrs l).map (List.map encode)

/-- R89: `;` starts a comment. -/
def stripComment (cs : List Char) : List Char := cs.takeWhile (· ≠ ';')

/-- What stands between the mnemonic and the operands of a line. -/
def isSeparator (c : Char) : Bool := c == ' ' || c == '\t' || c == ','

/-- The words of a line, comments gone. -/
def lineTokens (cs : List Char) : List (List Char) :=
  ((stripComment cs).splitOnP isSeparator).filter (· ≠ [])

/-- A digit of base 10 or 16. -/
def digitValue (base : Nat) (c : Char) : Option Nat :=
  let n := c.toNat
  let v := if 48 ≤ n ∧ n ≤ 57 then n - 48
    else if 65 ≤ n ∧ n ≤ 70 then n - 55
    else if 97 ≤ n ∧ n ≤ 102 then n - 87
    else base
  if v < base then some v else none

/-- A run of digits, most significant first, onto the value read so far. -/
def digitsValue (base : Nat) : List Char → Nat → Option Nat
  | [], acc => some acc
  | c :: cs, acc => (digitValue base c).bind fun d => digitsValue base cs (acc * base + d)

/-- R89: an operand "in decimal or `0x` hex". -/
def parseOperand (cs : List Char) : Option Nat :=
  match cs with
  | '0' :: 'x' :: d :: ds => digitsValue 16 (d :: ds) 0
  | d :: ds => digitsValue 10 (d :: ds) 0
  | [] => none

/-- Every operand of a line, in order; `none` when one does not parse. -/
def parseOperands : List (List Char) → Option (List Nat)
  | [] => some []
  | t :: ts => (parseOperand t).bind fun v => (parseOperands ts).map (v :: ·)

/-- The mnemonic a token spells. -/
def parseMnemonic (cs : List Char) : Option AsmOp :=
  (asmNames.find? fun p => p.1.toList == cs).map (·.2)

/-- The command words of one line of text; a line of blanks or comment alone gives none. -/
def assembleText (text : String) : Option (List Word) :=
  match lineTokens text.toList with
  | [] => some []
  | m :: rest =>
    (parseMnemonic m).bind fun op => (parseOperands rest).bind fun args => assembleLine ⟨op, args⟩

/-- The command words of a source, line by line (R89). -/
def assembleSource : List String → Option (List Word)
  | [] => some []
  | l :: ls => (assembleText l).bind fun ws => (assembleSource ls).map (ws ++ ·)

end Sys2Proof.Machine
end

