-- ==== Sys2Proof/Machine/RealUnits.lean ====
section
/-! DEFINITION. The source's real-valued quantities, as exact rationals: the converter's formulas of `44_converter.md`
R208 and the reconstructions of `41_config_encoder.md` R126, R127 and R132. No command computes them; statements
compare registers with them. A magnitude is given by its square, which is rational. -/

namespace Sys2Proof.Machine

/-- R9, R208: the instrument constant RI = 110. -/
def instrumentRI : ℚ := 110

/-- `potentialReal(r)` in mV (R208). -/
def potentialReal (r : Int) : ℚ := r * 5000 / 2 ^ 28

/-- `currentReal(r)` in mA (R208). -/
def currentReal (r : Int) : ℚ := r * 5000000 / (instrumentRI * 2 ^ 28)

/-- `batteryReal(r)` in V (R208): 18.3 over 16383. -/
def batteryReal (r : Int) : ℚ := r * (183 / 10) / 16383

/-- The square of `magnitude(p, q)` (R208). -/
def magnitudeSq (p q : ℚ) : ℚ := p ^ 2 + q ^ 2

/-- `phaseRho` in Ohm·m (R208). -/
def phaseRho (vp vq ip iq : ℚ) : ℚ := 1000 * (vp * ip + vq * iq) / (ip ^ 2 + iq ^ 2)

/-- `quadRho` in Ohm·m (R208). -/
def quadRho (vp vq ip iq : ℚ) : ℚ := 1000 * (vq * ip - vp * iq) / (ip ^ 2 + iq ^ 2)

/-- The source's step 2 before rounding (R126): 256·((900/voltage) − 0.08 − 4.5)/50, with voltage = vc/100. -/
def exactUx (vc : Nat) : ℚ := 256 * (900 / ((vc : ℚ) / 100) - 8 / 100 - 45 / 10) / 50

/-- The source's step 3 before rounding (R127): frequency · 2^28 / 500000, with frequency = fq/2^16. -/
def exactFx (fq : Nat) : ℚ := (fq : ℚ) / 2 ^ 16 * 2 ^ 28 / 500000

/-- `Vrec` in volts (R132). -/
def reconstructedVolt (ux : Nat) : ℚ := 900 / (50 * (ux : ℚ) / 256 + 458 / 100)

/-- `frec` in the source's frequency unit (R132). -/
def reconstructedFreq (fx : Nat) : ℚ := (fx : ℚ) * 500000 / 2 ^ 28

/-- The value a register with F fractional bits stands for (R200). -/
def fixedPoint (reg : Int) (f : Nat) : ℚ := reg / 2 ^ f

end Sys2Proof.Machine
end

