-- ==== Sys2Proof/Safety.lean ====
section
/-! DEFINITION. What a safe run is: every step answers a next state (`60_exceptions.md` R252, R255), and the
invariants that every step keeps. -/

namespace Sys2Proof.Machine

/-- The step answers a next state. -/
def StepCompletes (s : State) : Prop := ∃ t, step s = .next t

/-- The bounds of the state: RX_CAP is legal (R8), 0 ≤ RX_LEN ≤ RX_CAP (R28), ERRFLAGS bit 0 and bits [15:11] are 0
(R23), and CODE is one of R250's ("The codes 11–255 are never produced"). -/
structure InvBounds (s : State) : Prop where
  cap : Config.LegalRxCap s.rxCap
  len : s.rx.length ≤ s.rxCap
  reserved : s.errflags &&& 0xF801#16 = 0#16
  code : (statusCode s).toNat ≤ 10

/-- The session: what ACK_OK and CFG_VALID promise (R25–R27), and R26's zero for bytes ACKB has not written. -/
structure InvSession (s : State) : Prop where
  /-- ACK_OK: "the last VACK succeeded, and no ENC has run since". -/
  acknowledged : s.ackOk = true → s.cfgValid = true ∧ s.actValid = true ∧ s.actCh = s.encCh
  /-- CFG_VALID: "CFRAME holds the frame of the last successful ENC", whose codes are UX, FX and ENC_CH. -/
  framed : s.cfgValid = true → ∃ imp it : Nat, imp ≤ 127 ∧ it ≤ 16383 ∧
    s.cframe = packFrame s.ux.toNat s.fx.toNat imp s.encCh.toNat it
  /-- ACKBUF: "a byte that ACKB has not written reads 0". -/
  unwritten : ∀ i : Fin 11, s.ackLen.toNat ≤ i.val → s.ackbuf[i.val] = 0#8

/-- One channel's flags tell which of its converted registers are current (R36, R206, R296). -/
structure ChannelCurrent (ip iq : Int) (c : Channel) : Prop where
  pot : c.flags.getLsbD 0 = true → c.vPMv = potentialMv c.vPRaw ∧ c.vQMv = potentialMv c.vQRaw
  magv : c.flags.getLsbD 1 = true → c.vMag = potentialMag (potentialSquares c)
  rho : c.flags.getLsbD 2 = true → c.flags.getLsbD 3 = false →
    c.rhoP = resistivity (c.vPRaw.toInt * ip + c.vQRaw.toInt * iq) (ip ^ 2 + iq ^ 2) ∧
    c.rhoQ = resistivity (c.vQRaw.toInt * ip - c.vPRaw.toInt * iq) (ip ^ 2 + iq ^ 2)
  inv : c.flags.getLsbD 3 = true → c.flags.getLsbD 2 = true ∧ ip = 0 ∧ iq = 0 ∧ c.rhoP = 0#64 ∧ c.rhoQ = 0#64

/-- A flag says that a converted register is current (R34, R36, R296), and only channels of the extracted frame have
flags (R36, R207). -/
structure InvConverted (s : State) : Prop where
  noFrame : s.frameValid = false → s.cvtFlags = 0#3 ∧ s.frameCh = 0#8
  bat : s.cvtFlags.getLsbD 0 = true → s.recBatMv = batteryMv s.recBatRaw ∧ s.emBatMv = batteryMv s.emBatRaw
  cur : s.cvtFlags.getLsbD 1 = true → s.iPMa = currentMa s.iPRaw ∧ s.iQMa = currentMa s.iQRaw
  magi : s.cvtFlags.getLsbD 2 = true → s.iMag = currentMag (currentSquares s)
  inFrame : ∀ k : Fin 255, s.frameCh.toNat ≤ k.val → s.channels[k.val].flags = 0#4
  current : ∀ k : Fin 255, ChannelCurrent s.iPRaw.toInt s.iQRaw.toInt s.channels[k.val]

end Sys2Proof.Machine
end

