-- ==== Sys2Proof/Certificates/Slice0/Obligations.lean ====
section
/-! DEFINITION. The statements for the provers: what the numbered rules of the spec say the block does. Each docstring
names the rules it formalises. A next state is written as the state before with the changed registers, so a result
is also its frame: every register, buffer and counter not named keeps its value. -/

open Sys2Proof Sys2Proof.Machine

/-! Words the statements share. -/

/-- The addresses R39 lists, below the buffer window. -/
def Sys2Proof.Claims.ListedBelowBuffer (a : Nat) : Prop :=
  a ≤ 0x06 ∨ (0x08 ≤ a ∧ a ≤ 0x0D) ∨ (0x10 ≤ a ∧ a ≤ 0x15) ∨ (0x18 ≤ a ∧ a ≤ 0x1C) ∨ (0x20 ≤ a ∧ a ≤ 0x25) ∨
    (0x28 ≤ a ∧ a ≤ 0x2D) ∨ ∃ p k, 1 ≤ p ∧ p ≤ 8 ∧ k < 255 ∧ a = 0x100 * p + k

/-- R128's ranges on the staged registers. -/
def Sys2Proof.Claims.LegalConfig (s : State) : Prop :=
  1655 ≤ s.cfgVolt.toNat ∧ s.cfgVolt.toNat ≤ 19651 ∧ s.cfgFreq.toNat ≤ 4095934464 ∧ s.cfgImp.toNat ≤ 127 ∧
    s.cfgCh.toNat ≤ 255 ∧ s.cfgInt.toNat ≤ 16383

/-- R153: the reply is 11 bytes long and its first ten equal CFRAME. -/
def Sys2Proof.Claims.Echoed (s : State) : Prop :=
  s.ackLen = 11#8 ∧ ∀ i : Fin 10, s.ackbuf[i.val] = s.cframe[i.val]

/-- R83: the offsets of the first bytes of the fields of a frame of n channels. -/
def Sys2Proof.Claims.FieldStart (i n : Nat) : Prop :=
  i = 0 ∨ i = 2 ∨ i = 4 ∨ i = 6 ∨ i = 10 ∨ ∃ k < n, i = 14 + 8 * k ∨ i = 18 + 8 * k

/-- R105: bit 7 is 1 on the first byte of each field and 0 on every other byte of the frame. -/
def Sys2Proof.Claims.TagsRight (rx : List Byte) (n : Nat) : Prop :=
  ∀ i < 14 + 8 * n, (rx.getD i 0#8).getLsbD 7 = true ↔ Sys2Proof.Claims.FieldStart i n

/-- R61, R101: the value of the `m` seven-bit groups from offset `o` on, low group first. -/
def Sys2Proof.Claims.groups (rx : List Byte) (o m : Nat) : Nat :=
  ((List.range m).map fun i => (rx.getD (o + i) 0#8).toNat % 128 * 128 ^ i).sum

/-- The conversion commands (R209). -/
def Sys2Proof.Claims.isConversion : Instr → Bool
  | .cbat | .ccur | .cmagi | .cpot _ | .cmagv _ | .crho _ | .call => true
  | _ => false

/-- Commands one after another, stopping at a fault or refusal. -/
def Sys2Proof.Claims.runAll : List Instr → State → Host.Outcome State Fault Refusal
  | [], s => .next s
  | i :: is, s =>
    match exec i s with
    | .next t => Sys2Proof.Claims.runAll is t
    | .fault r => .fault r
    | .refused r => .refused r

/-- R207's pseudocode as the commands whose bodies it names, for FRAME_CH = n. -/
def Sys2Proof.Claims.callSequence (n : Nat) : List Instr :=
  [.cbat, .ccur, .cmagi] ++
    (List.range n).flatMap fun k => [.cpot (BitVec.ofNat 8 k), .cmagv (BitVec.ofNat 8 k), .crho (BitVec.ofNat 8 k)]

/-- R250's "raised by" column. -/
def Sys2Proof.Claims.mayRaise : Instr → List ResultCode
  | .enc => [.ok, .cfgParam]
  | .vack => [.ok, .ackMismatch, .noConfig]
  | .rxb _ => [.ok, .rxOverflow]
  | .val => [.ok, .noConfig, .frameShort, .frameRejected]
  | .cbat | .ccur | .cmagi => [.ok, .noFrame]
  | .cpot _ | .cmagv _ => [.ok, .noFrame, .badChannel]
  | .crho _ => [.ok, .noFrame, .badChannel, .rhoUndefined]
  | .call => [.ok, .noFrame, .rhoUndefined]
  | _ => [.ok]

open Sys2Proof.Claims

/-! Encodings (30_encoding.md). -/

/-- R84–R86: a word of each row of the opcode map, written out from R84's layout. A sanity statement. -/
def Obligations.OpcodeMapWordsDecode : Prop :=
  (decode 0x00000000#32 = some .nop ∧ decode 0x00000001#32 = some .reset ∧ decode 0x00000002#32 = some .errclr) ∧
  (decode 0x27100010#32 = some (.setv 10000#16) ∧ decode 0x80000011#32 = some (.setfl 0x8000#16) ∧
    decode 0x03E80012#32 = some (.setfh 1000#16) ∧ decode 0x000A0013#32 = some (.setimp 10#16) ∧
    decode 0x00010014#32 = some (.setch 1#16) ∧ decode 0x00640015#32 = some (.setint 100#16) ∧
    decode 0x00000018#32 = some .enc) ∧
  (decode 0x0000AF20#32 = some (.ackb 0xAF#8) ∧ decode 0x00000021#32 = some .ackclr ∧
    decode 0x00000022#32 = some .vack) ∧
  (decode 0x00008130#32 = some (.rxb 0x81#8) ∧ decode 0x00000031#32 = some .rxclr ∧
    decode 0x001E0032#32 = some (.rxdrop 30#16) ∧ decode 0x00000033#32 = some .val) ∧
  (decode 0x00000040#32 = some .cbat ∧ decode 0x00000041#32 = some .ccur ∧ decode 0x00000042#32 = some .cmagi ∧
    decode 0x0000FE43#32 = some (.cpot 254#8) ∧ decode 0x00000144#32 = some (.cmagv 1#8) ∧
    decode 0x0000FF45#32 = some (.crho 255#8) ∧ decode 0x0000004F#32 = some .call)

/-- Decoding the word of any command gives the command back, at every operand value (R84–R86). -/
def Obligations.DecodeOfEncode : Prop :=
  ∀ i : Instr, decode (encode i) = some i

/-- R88: every word selects exactly one row of the map and decodes to the one command that encodes to it, or selects
none and is illegal. -/
def Obligations.DecodeSelectsExactlyOneRow : Prop :=
  ∀ w : Word,
    (∃ row ∈ opcodeMap, ∃ i, selectsRow w row = true ∧ (∀ r ∈ opcodeMap, selectsRow w r = true → r = row) ∧
      decode w = some i ∧ encode i = w) ∨
    ((∀ row ∈ opcodeMap, selectsRow w row = false) ∧ decode w = none)

/-- R89's operand ranges on three one-operand mnemonics (SETV, RXB and CPOT, one of each format with an operand), and
R90's expansions. RXBS and ACKBS are stated for at least one byte (log entry 6). -/
def Obligations.PseudoInstructionsExpand : Prop :=
  (∀ v, lineInstrs ⟨.setv, [v]⟩ = if v ≤ 65535 then some [.setv (BitVec.ofNat 16 v)] else none) ∧
  (∀ v, lineInstrs ⟨.rxb, [v]⟩ = if v ≤ 255 then some [.rxb (BitVec.ofNat 8 v)] else none) ∧
  (∀ v, lineInstrs ⟨.cpot, [v]⟩ = if v ≤ 255 then some [.cpot (BitVec.ofNat 8 v)] else none) ∧
  (∀ q : BitVec 32, lineInstrs ⟨.setf, [q.toNat]⟩ =
    some [.setfl (q.extractLsb' 0 16), .setfh (q.extractLsb' 16 16)]) ∧
  (∀ n : BitVec 16, lineInstrs ⟨.setfi, [n.toNat]⟩ = some [.setfl 0#16, .setfh n]) ∧
  (∀ bs : List Byte, bs ≠ [] → lineInstrs ⟨.rxbs, bs.map BitVec.toNat⟩ = some (bs.map Instr.rxb) ∧
    lineInstrs ⟨.ackbs, bs.map BitVec.toNat⟩ = some (bs.map Instr.ackb)) ∧
  (∀ (v i c n : BitVec 16) (q : BitVec 32),
    lineInstrs ⟨.config, [v.toNat, q.toNat, i.toNat, c.toNat, n.toNat]⟩ =
      some [.setv v, .setfl (q.extractLsb' 0 16), .setfh (q.extractLsb' 16 16), .setimp i, .setch c, .setint n, .enc])

/-! The step and the ports (00_scope.md, 10_state.md, 20_memory.md, 60_exceptions.md, 70_reset_and_hazards.md). -/

/-- R16: a command word that decodes is executed as one step, after the host's index, the model's own field (log
entry 2), has moved past it. -/
def Obligations.StepRunsDecodedCommand : Prop :=
  ∀ (s : State) (w : Word) (rest : List HostInput) (i : Instr),
    s.hostInputs = .command w :: rest → decode w = some i →
      step s = exec i { s with hostInputs := rest, hostPc := s.hostPc + 1 }

/-- R87, R253: an illegal word changes nothing but STATUS and ERRFLAGS. That the host's stimuli and index move on is
the model's choice (log entry 2), with the index as R21 allows it. -/
def Obligations.IllegalWordAnswersIllegalCmd : Prop :=
  ∀ (s : State) (w : Word) (rest : List HostInput),
    s.hostInputs = .command w :: rest → wellFormedWord w = false →
      step s = .next { s with
        hostInputs := rest, hostPc := s.hostPc + 1, status := w.extractLsb' 0 8 ++ 0x0A#8,
        errflags := s.errflags ||| 0x0400#16 }

/-- R38, R64: a read answers the word of the state between two commands and changes no register. The fields
`hostInputs` and `hostRead` are the model's own (log entry 2). -/
def Obligations.ReadHasNoSideEffect : Prop :=
  ∀ (s : State) (a : ReadAddr) (rest : List HostInput),
    s.hostInputs = .read a :: rest →
      step s = .next { s with hostInputs := rest, hostRead := some (readPort s a) }

/-- R265: with nothing presented, the block holds its state. That such a step exists is the model's choice (log
entry 5). -/
def Obligations.IdleBlockHoldsItsState : Prop :=
  ∀ s : State, s.hostInputs = [] → step s = .next s

/-- R21: every command word, legal or not, moves the host's index, the model's own field (log entry 2), by exactly 1,
whatever its result; RX_CAP stays (log entry 1). -/
def Obligations.HostIndexAdvancesByOne : Prop :=
  ∀ (s : State) (w : Word) (rest : List HostInput),
    s.hostInputs = .command w :: rest →
      ∃ t, step s = .next t ∧ t.hostPc = s.hostPc + 1 ∧ t.hostInputs = rest ∧ t.rxCap = s.rxCap ∧
        t.hostRead = s.hostRead

/-- R252, R255: every step and every command answers a next state, in every state. -/
def Obligations.EveryCommandCompletes : Prop :=
  (∀ s : State, StepCompletes s) ∧ ∀ (i : Instr) (s : State), ∃ t, exec i s = .next t

/-- R241, R280: RESET and the reset input put every register at 0, so that every word but RX_CAP's reads 0. That they
keep RX_CAP and the host's side is the model's choice (log entries 1 and 2). -/
def Obligations.ResetClearsEveryRegister : Prop :=
  ∀ s : State,
    (∃ t, exec .reset s = .next t ∧
      t = { State.reset with
        rxCap := s.rxCap, hostInputs := s.hostInputs, hostPc := s.hostPc, hostRead := s.hostRead } ∧
      t.status = 0#16 ∧ t.rx = [] ∧ ∀ a : ReadAddr, a ≠ 0x0019#16 → readPort t a = 0#64) ∧
    (∀ rest, s.hostInputs = .resetInput :: rest →
      step s = .next { State.reset with
        rxCap := s.rxCap, hostInputs := rest, hostPc := s.hostPc, hostRead := s.hostRead })

/-- R39 row by row, with R38's extensions and R62's packing. The premise is the invariant `InvBounds`. -/
def Obligations.ReadMapRows : Prop :=
  ∀ s : State, InvBounds s →
    ((readPort s 0x0000#16).extractLsb' 0 8 = statusCode s ∧
      (readPort s 0x0000#16).extractLsb' 8 8 = statusLastOp s ∧ (readPort s 0x0000#16).toNat < 2 ^ 16) ∧
    ((readPort s 0x0001#16).toNat = s.errflags.toNat ∧ (readPort s 0x0002#16).toNat = s.cfgVolt.toNat ∧
      (readPort s 0x0003#16).toNat = s.cfgFreq.toNat ∧ (readPort s 0x0004#16).toNat = s.cfgImp.toNat ∧
      (readPort s 0x0005#16).toNat = s.cfgCh.toNat ∧ (readPort s 0x0006#16).toNat = s.cfgInt.toNat) ∧
    ((readPort s 0x0008#16).getLsbD 0 = s.cfgValid ∧ (readPort s 0x0008#16).getLsbD 1 = s.ackOk ∧
      (readPort s 0x0008#16).getLsbD 2 = s.actValid ∧ (readPort s 0x0008#16).getLsbD 3 = s.frameValid ∧
      (readPort s 0x0008#16).toNat < 16) ∧
    ((readPort s 0x0009#16).toNat = s.ux.toNat ∧ (readPort s 0x000A#16).toNat = s.fx.toNat ∧
      (readPort s 0x000B#16).toNat = s.encCh.toNat) ∧
    ((∀ i : Fin 8, (readPort s 0x000C#16).extractLsb' (8 * i.val) 8 = s.cframe[i.val]) ∧
      (∀ i : Fin 2, (readPort s 0x000D#16).extractLsb' (8 * i.val) 8 = s.cframe[8 + i.val]) ∧
      (readPort s 0x000D#16).toNat < 2 ^ 16) ∧
    ((readPort s 0x0010#16).toNat = s.ackLen.toNat ∧
      (∀ i : Fin 8, (readPort s 0x0011#16).extractLsb' (8 * i.val) 8 = s.ackbuf[i.val]) ∧
      (∀ i : Fin 3, (readPort s 0x0012#16).extractLsb' (8 * i.val) 8 = s.ackbuf[8 + i.val]) ∧
      (readPort s 0x0012#16).toNat < 2 ^ 24) ∧
    ((readPort s 0x0013#16).getLsbD 0 = s.run ∧ (readPort s 0x0013#16).extractLsb' 1 6 = s.boardId ∧
      (readPort s 0x0013#16).toNat < 2 ^ 7) ∧
    ((readPort s 0x0014#16).toNat = s.actCh.toNat ∧
      (readPort s 0x0015#16).toNat = (if s.actValid = true then 14 + 8 * s.actCh.toNat else 0) ∧
      (readPort s 0x0018#16).toNat = s.rx.length ∧ (readPort s 0x0019#16).toNat = s.rxCap) ∧
    ((readPort s 0x001A#16).toNat = s.frameCount.toNat ∧ (readPort s 0x001B#16).toNat = s.rejectCount.toNat ∧
      (readPort s 0x001C#16).toNat = s.ovfCount.toNat) ∧
    ((readPort s 0x0020#16).toNat = s.frameCh.toNat ∧ (readPort s 0x0021#16).toNat = s.measCount.toNat ∧
      (readPort s 0x0022#16).toNat = s.recBatRaw.toNat ∧ (readPort s 0x0023#16).toNat = s.emBatRaw.toNat ∧
      (readPort s 0x0024#16).toInt = s.iPRaw.toInt ∧ (readPort s 0x0025#16).toInt = s.iQRaw.toInt) ∧
    ((readPort s 0x0028#16).toNat = s.cvtFlags.toNat ∧ (readPort s 0x0029#16).toNat = s.recBatMv.toNat ∧
      (readPort s 0x002A#16).toNat = s.emBatMv.toNat ∧ (readPort s 0x002B#16).toInt = s.iPMa.toInt ∧
      (readPort s 0x002C#16).toInt = s.iQMa.toInt ∧ (readPort s 0x002D#16).toNat = s.iMag.toNat) ∧
    (∀ k : Fin 255,
      (readPort s (BitVec.ofNat 16 (0x0100 + k.val))).toInt = s.channels[k.val].vPRaw.toInt ∧
      (readPort s (BitVec.ofNat 16 (0x0200 + k.val))).toInt = s.channels[k.val].vQRaw.toInt ∧
      (readPort s (BitVec.ofNat 16 (0x0300 + k.val))).toNat = s.channels[k.val].flags.toNat ∧
      (readPort s (BitVec.ofNat 16 (0x0400 + k.val))).toInt = s.channels[k.val].vPMv.toInt ∧
      (readPort s (BitVec.ofNat 16 (0x0500 + k.val))).toInt = s.channels[k.val].vQMv.toInt ∧
      (readPort s (BitVec.ofNat 16 (0x0600 + k.val))).toNat = s.channels[k.val].vMag.toNat ∧
      (readPort s (BitVec.ofNat 16 (0x0700 + k.val))).toInt = s.channels[k.val].rhoP.toInt ∧
      (readPort s (BitVec.ofNat 16 (0x0800 + k.val))).toInt = s.channels[k.val].rhoQ.toInt) ∧
    (∀ p : Fin 8, readPort s (BitVec.ofNat 16 (0x01FF + 0x0100 * p.val)) = 0#64) ∧
    (∀ i : Fin 61440, readPort s (BitVec.ofNat 16 (0x1000 + i.val)) =
      if i.val < s.rx.length then (s.rx.getD i.val 0#8).setWidth 64 else 0#64)

/-- R65: "an address the map does not list reads 0", k = 255 among them, and R28's bytes past RX_LEN. -/
def Obligations.UnlistedAddressesReadZero : Prop :=
  ∀ (s : State) (a : ReadAddr),
    (a.toNat < 0x1000 → ¬ ListedBelowBuffer a.toNat → readPort s a = 0#64) ∧
    (0x1000 + s.rx.length ≤ a.toNat → readPort s a = 0#64)

/-- R37: the block has no hidden state. Two states that answer every read alike agree on every register, buffer and
counter, and differ at most in the host's side. The premises are the invariant `InvBounds`. -/
def Obligations.ReadPortShowsTheWholeState : Prop :=
  ∀ s t : State, InvBounds s → InvBounds t → (∀ a : ReadAddr, readPort s a = readPort t a) →
    t = { s with hostInputs := t.hostInputs, hostPc := t.hostPc, hostRead := t.hostRead }

/-! Result codes and whole-machine rules. -/

/-- R22, R251: every command but RESET leaves its op in LASTOP and one of R250's codes for it in CODE, and a nonzero
code sets its sticky bit (ERRCLR clears them all, R242). -/
def Obligations.EveryCommandRecordsItsResult : Prop :=
  (∀ (i : Instr) (s t : State), exec i s = .next t → i ≠ .reset →
    ∃ c ∈ mayRaise i,
      t.status = opField (encode i) ++ BitVec.ofNat 8 (codeNumber c) ∧
      t.errflags = if i = .errclr then 0#16
        else if codeNumber c = 0 then s.errflags else s.errflags ||| 1#16 <<< codeNumber c) ∧
  (∀ s t : State, exec .reset s = .next t → t.status = 0#16) ∧ State.reset.status = 0#16

/-- R23: a step clears an ERRFLAGS bit only on ERRCLR, RESET or the reset input; a nonzero code sets its bit; the
reserved bits stay 0. -/
def Obligations.ErrorFlagsAreSticky : Prop :=
  (∀ (s t : State), step s = .next t →
    (∀ rest, s.hostInputs ≠ .command 0x00000001#32 :: rest ∧ s.hostInputs ≠ .command 0x00000002#32 :: rest ∧
      s.hostInputs ≠ .resetInput :: rest) →
    ∀ j, s.errflags.getLsbD j = true → t.errflags.getLsbD j = true) ∧
  (∀ (s t : State) (w : Word) (rest : List HostInput), s.hostInputs = .command w :: rest → step s = .next t →
    statusCode t ≠ 0#8 → t.errflags.getLsbD (statusCode t).toNat = true) ∧
  (∀ (s t : State), step s = .next t → s.errflags &&& 0xF801#16 = 0#16 → t.errflags &&& 0xF801#16 = 0#16) ∧
  State.reset.errflags = 0#16

/-- R28: "Only RXB, RXCLR, RXDROP, RESET and reset change the buffer." -/
def Obligations.BufferChangedOnlyByBufferCommands : Prop :=
  ∀ (i : Instr) (s t : State), exec i s = .next t → t.rx ≠ s.rx →
    (∃ b, i = .rxb b) ∨ i = .rxclr ∨ (∃ n, i = .rxdrop n) ∨ i = .reset

/-- R26, R27: only VACK and RESET write the active configuration, RUN and BOARD_ID; only VACK, ENC and RESET write
ACK_OK; only ACKB, ACKCLR and RESET write the acknowledgement buffer. -/
def Obligations.SessionWrittenOnlyByItsCommands : Prop :=
  ∀ (i : Instr) (s t : State), exec i s = .next t → i ≠ .reset →
    (i ≠ .vack → t.actValid = s.actValid ∧ t.actCh = s.actCh ∧ t.run = s.run ∧ t.boardId = s.boardId) ∧
    (i ≠ .vack → i ≠ .enc → t.ackOk = s.ackOk) ∧
    (i ≠ .ackclr → (∀ b, i ≠ .ackb b) → t.ackLen = s.ackLen ∧ t.ackbuf = s.ackbuf)

/-- R25, R294: only a successful ENC writes the encoder's outputs; a failed one clears CFG_VALID alone. -/
def Obligations.EncoderOutputsWrittenOnlyByEnc : Prop :=
  (∀ (i : Instr) (s t : State), exec i s = .next t → i ≠ .reset → i ≠ .enc →
    t.cfgValid = s.cfgValid ∧ t.ux = s.ux ∧ t.fx = s.fx ∧ t.encCh = s.encCh ∧ t.cframe = s.cframe) ∧
  (∀ s t : State, exec .enc s = .next t → statusCode t ≠ 0#8 →
    t.cfgValid = false ∧ t.ux = s.ux ∧ t.fx = s.fx ∧ t.encCh = s.encCh ∧ t.cframe = s.cframe)

/-- R29: what each counter counts, modulo 2^32; no other command writes one. -/
def Obligations.CountersCountTheirEvents : Prop :=
  (∀ (i : Instr) (s t : State), exec i s = .next t → i ≠ .reset →
    t.frameCount = s.frameCount + (if i = .val ∧ statusCode t = 0#8 then 1#32 else 0#32) ∧
    t.rejectCount = s.rejectCount + (if i = .val ∧ statusCode t = 5#8 then 1#32 else 0#32) ∧
    t.ovfCount = s.ovfCount + (if (∃ b, i = .rxb b) ∧ statusCode t = 8#8 then 1#32 else 0#32)) ∧
  State.reset.frameCount = 0#32 ∧ State.reset.rejectCount = 0#32 ∧ State.reset.ovfCount = 0#32

/-- R30–R32: only a successful VAL (and RESET) writes FRAME_VALID, FRAME_CH and the raw field registers. -/
def Obligations.RawFieldsWrittenOnlyByVal : Prop :=
  ∀ (i : Instr) (s t : State), exec i s = .next t → i ≠ .reset → ¬ (i = .val ∧ statusCode t = 0#8) →
    t.frameValid = s.frameValid ∧ t.frameCh = s.frameCh ∧ t.measCount = s.measCount ∧
    t.recBatRaw = s.recBatRaw ∧ t.emBatRaw = s.emBatRaw ∧ t.iPRaw = s.iPRaw ∧ t.iQRaw = s.iQRaw ∧
    ∀ k : Fin 255, t.channels[k.val].vPRaw = s.channels[k.val].vPRaw ∧
      t.channels[k.val].vQRaw = s.channels[k.val].vQRaw

/-- R201–R206, with R16 and R209: each conversion command writes only its own converted registers, and no other command
but RESET and CALL (R33, R35) writes any. -/
def Obligations.ConvertedRegistersWrittenOnlyByTheirCommands : Prop :=
  ∀ (i : Instr) (s t : State), exec i s = .next t → i ≠ .reset → i ≠ .call →
    (i ≠ .cbat → t.recBatMv = s.recBatMv ∧ t.emBatMv = s.emBatMv) ∧
    (i ≠ .ccur → t.iPMa = s.iPMa ∧ t.iQMa = s.iQMa) ∧
    (i ≠ .cmagi → t.iMag = s.iMag) ∧
    ∀ k : Fin 255,
      (i ≠ .cpot (BitVec.ofNat 8 k.val) → t.channels[k.val].vPMv = s.channels[k.val].vPMv ∧
        t.channels[k.val].vQMv = s.channels[k.val].vQMv) ∧
      (i ≠ .cmagv (BitVec.ofNat 8 k.val) → t.channels[k.val].vMag = s.channels[k.val].vMag) ∧
      (i ≠ .crho (BitVec.ofNat 8 k.val) → t.channels[k.val].rhoP = s.channels[k.val].rhoP ∧
        t.channels[k.val].rhoQ = s.channels[k.val].rhoQ)

/-! Invariants that every step keeps. -/

/-- R8, R23, R28, R250: the bounds of the state. -/
def Obligations.BoundsKeptByEveryStep : Prop :=
  ∀ s t : State, InvBounds s → step s = .next t → InvBounds t

/-- R25–R27: what ACK_OK, CFG_VALID and unwritten ACKBUF bytes promise. -/
def Obligations.SessionKeptByEveryStep : Prop :=
  ∀ s t : State, InvSession s → step s = .next t → InvSession t

/-- R34, R36, R296: a flag that is 1 marks a register that is current for the extracted frame. -/
def Obligations.ConversionFlagsKeptByEveryStep : Prop :=
  ∀ s t : State, InvConverted s → step s = .next t → InvConverted t

/-- The three invariants hold right after reset (R40), where RX_CAP has its default (log entry 1). -/
def Obligations.ResetMeetsTheInvariants : Prop :=
  InvBounds State.reset ∧ InvSession State.reset ∧ InvConverted State.reset

/-- R281: what the commands answer right after reset. -/
def Obligations.CommandsAfterReset : Prop :=
  exec .vack State.reset = .next { State.reset with status := 0x2203#16, errflags := 0x0008#16 } ∧
  exec .val State.reset = .next { State.reset with status := 0x3303#16, errflags := 0x0008#16 } ∧
  exec .enc State.reset = .next { State.reset with status := 0x1801#16, errflags := 0x0002#16 } ∧
  exec .cbat State.reset = .next { State.reset with status := 0x4006#16, errflags := 0x0040#16 } ∧
  exec .ccur State.reset = .next { State.reset with status := 0x4106#16, errflags := 0x0040#16 } ∧
  exec .cmagi State.reset = .next { State.reset with status := 0x4206#16, errflags := 0x0040#16 } ∧
  (∀ k, exec (.cpot k) State.reset = .next { State.reset with status := 0x4306#16, errflags := 0x0040#16 }) ∧
  (∀ k, exec (.cmagv k) State.reset = .next { State.reset with status := 0x4406#16, errflags := 0x0040#16 }) ∧
  (∀ k, exec (.crho k) State.reset = .next { State.reset with status := 0x4506#16, errflags := 0x0040#16 }) ∧
  exec .call State.reset = .next { State.reset with status := 0x4F06#16, errflags := 0x0040#16 }

/-! Control commands (45_control.md) and staging (41_config_encoder.md). -/

/-- R240, R242: NOP and ERRCLR. -/
def Obligations.NopAndErrclrResults : Prop :=
  ∀ s : State,
    exec .nop s = .next { s with status := 0x0000#16 } ∧
    exec .errclr s = .next { s with status := 0x0200#16, errflags := 0x0000#16 }

/-- R120–R125: each staging command writes its register and no other; SETFL and SETFH keep the other half. -/
def Obligations.StagingCommandsWriteTheirRegister : Prop :=
  ∀ (s : State) (imm : BitVec 16),
    exec (.setv imm) s = .next { s with cfgVolt := imm, status := 0x1000#16 } ∧
    (∃ f : BitVec 32, exec (.setfl imm) s = .next { s with cfgFreq := f, status := 0x1100#16 } ∧
      f.extractLsb' 0 16 = imm ∧ f.extractLsb' 16 16 = s.cfgFreq.extractLsb' 16 16) ∧
    (∃ f : BitVec 32, exec (.setfh imm) s = .next { s with cfgFreq := f, status := 0x1200#16 } ∧
      f.extractLsb' 16 16 = imm ∧ f.extractLsb' 0 16 = s.cfgFreq.extractLsb' 0 16) ∧
    exec (.setimp imm) s = .next { s with cfgImp := imm, status := 0x1300#16 } ∧
    exec (.setch imm) s = .next { s with cfgCh := imm, status := 0x1400#16 } ∧
    exec (.setint imm) s = .next { s with cfgInt := imm, status := 0x1500#16 }

/-! ENC (41_config_encoder.md). -/

/-- R128, R130: ENC succeeds exactly on the legal ranges, with the codes of R126 and R127. That the ranges alone suffice
and that UX and FX hold the codes whole is the spec's own inference (R126's range, R131; log entry 10). -/
def Obligations.EncEncodesOrRejects : Prop :=
  ∀ s : State,
    (LegalConfig s → ∃ t, exec .enc s = .next t ∧
      (t.ux.toNat : Int) = uxOf s.cfgVolt.toNat ∧ (t.fx.toNat : Int) = fxOf s.cfgFreq.toNat ∧
      t.encCh.toNat = s.cfgCh.toNat ∧
      t.cframe = packFrame t.ux.toNat t.fx.toNat s.cfgImp.toNat s.cfgCh.toNat s.cfgInt.toNat ∧
      t = { s with
        ux := t.ux, fx := t.fx, encCh := t.encCh, cframe := t.cframe, cfgValid := true, ackOk := false,
        status := 0x1800#16 }) ∧
    (¬ LegalConfig s → exec .enc s = .next { s with
      cfgValid := false, ackOk := false, status := 0x1801#16, errflags := s.errflags ||| 0x0002#16 })

/-- R126, R131: on the legal ranges UxOf stays in 0..255, falls as the voltage rises and meets both ends; FxOf is
monotone and stays in 0..33553895. So the post-conversion checks never fire. -/
def Obligations.PostConversionChecksNeverFire : Prop :=
  (∀ vc, 1655 ≤ vc → vc ≤ 19651 → 0 ≤ uxOf vc ∧ uxOf vc ≤ 255) ∧
  (∀ vc vc', 1655 ≤ vc → vc ≤ vc' → vc' ≤ 19651 → uxOf vc' ≤ uxOf vc) ∧
  uxOf 1655 = 255 ∧ uxOf 19651 = 0 ∧
  (∀ fq, fq ≤ 4095934464 → 0 ≤ fxOf fq ∧ fxOf fq ≤ 33553895) ∧
  (∀ fq fq', fq ≤ fq' → fxOf fq ≤ fxOf fq') ∧ fxOf 4095934464 = 33553895

/-- R126, R127, R132: the closed forms are the source's real formulas, which the reconstructions invert, and the
codes lie within half a step of them. -/
def Obligations.CodesAreWithinHalfAStep : Prop :=
  (∀ vc, 1 ≤ vc → |(uxOf vc : ℚ) - exactUx vc| ≤ 1 / 2) ∧
  (∀ fq, |(fxOf fq : ℚ) - exactFx fq| ≤ 1 / 2) ∧
  (∀ vc, 1 ≤ vc → 900 / (50 * exactUx vc / 256 + 458 / 100) = (vc : ℚ) / 100) ∧
  (∀ fq, exactFx fq * 500000 / 2 ^ 28 = (fq : ℚ) / 2 ^ 16)

/-- R80: the ten bytes of CFRAME after a successful ENC, bit by bit. -/
def Obligations.ConfigFrameLayout : Prop :=
  ∀ s t : State, exec .enc s = .next t → statusCode t = 0#8 →
    t.cframe[0] = 1#1 ++ t.ux.extractLsb' 0 6 ++ 1#1 ∧
    t.cframe[1] = 0#6 ++ t.ux.extractLsb' 6 2 ∧
    t.cframe[2] = 0#1 ++ t.fx.extractLsb' 0 7 ∧
    t.cframe[3] = 0#1 ++ t.fx.extractLsb' 7 7 ∧
    t.cframe[4] = 0#1 ++ t.fx.extractLsb' 14 7 ∧
    t.cframe[5] = 0#4 ++ t.fx.extractLsb' 21 4 ∧
    t.cframe[6] = 0#1 ++ s.cfgImp.extractLsb' 0 7 ∧
    t.cframe[7] = 0#1 ++ s.cfgCh.extractLsb' 0 7 ∧
    t.cframe[8] = 0#1 ++ s.cfgInt.extractLsb' 0 7 ∧
    t.cframe[9] = 0#1 ++ s.cfgInt.extractLsb' 7 7

/-- R133: two legal channel counts that differ by 128 give the same CFRAME, but ENC_CH keeps each whole. -/
def Obligations.ChannelCounts128ApartShareAFrame : Prop :=
  ∀ s : State, LegalConfig s → s.cfgCh.toNat < 128 →
    ∃ t u, exec .enc s = .next t ∧ exec .enc { s with cfgCh := s.cfgCh + 128#16 } = .next u ∧
      t.cframe = u.cframe ∧ t.encCh.toNat = s.cfgCh.toNat ∧ u.encCh.toNat = s.cfgCh.toNat + 128

/-! Acknowledgement verifier (42_ack_verifier.md). -/

/-- R69, R150, R151: ACKB and ACKCLR. -/
def Obligations.AckBufferCommands : Prop :=
  ∀ (s : State) (b : Byte),
    (∃ t, exec (.ackb b) s = .next t ∧ t.ackLen.toNat = min (s.ackLen.toNat + 1) 255 ∧
      (∀ i : Fin 11, t.ackbuf[i.val] = if i.val = s.ackLen.toNat then b else s.ackbuf[i.val]) ∧
      t = { s with ackLen := t.ackLen, ackbuf := t.ackbuf, status := 0x2000#16 }) ∧
    (∃ t, exec .ackclr s = .next t ∧ (∀ i : Fin 11, t.ackbuf[i.val] = 0#8) ∧
      t = { s with ackLen := 0#8, ackbuf := t.ackbuf, status := 0x2100#16 })

/-- R152–R154: VACK's three outcomes. Byte 10 plays no part in the comparison, and its bit 7 none at all. -/
def Obligations.VackComparesTheEcho : Prop :=
  ∀ s : State,
    (s.cfgValid = false →
      exec .vack s = .next { s with status := 0x2203#16, errflags := s.errflags ||| 0x0008#16 }) ∧
    (s.cfgValid = true → ¬ Echoed s →
      exec .vack s = .next { s with
        ackOk := false, actValid := false, status := 0x2202#16, errflags := s.errflags ||| 0x0004#16 }) ∧
    (s.cfgValid = true → Echoed s →
      exec .vack s = .next { s with
        run := s.ackbuf[10].getLsbD 0, boardId := s.ackbuf[10].extractLsb' 1 6, ackOk := true, actValid := true,
        actCh := s.encCh, status := 0x2200#16 })

/-! Reception buffer and validator (43_frame_validator.md, 40_codec.md). -/

/-- R67, R170–R172: RXB, RXCLR and RXDROP, the bytes left keeping their order. -/
def Obligations.ReceptionBufferCommands : Prop :=
  ∀ (s : State) (b : Byte) (n : BitVec 16),
    (s.rx.length = s.rxCap → exec (.rxb b) s = .next { s with
      ovfCount := s.ovfCount + 1#32, status := 0x3008#16, errflags := s.errflags ||| 0x0100#16 }) ∧
    (s.rx.length ≠ s.rxCap → exec (.rxb b) s = .next { s with rx := s.rx ++ [b], status := 0x3000#16 }) ∧
    exec .rxclr s = .next { s with rx := [], status := 0x3100#16 } ∧
    (∃ t, exec (.rxdrop n) s = .next t ∧ t.rx.length = s.rx.length - min n.toNat s.rx.length ∧
      (∀ i < t.rx.length, t.rx.getD i 0#8 = s.rx.getD (i + min n.toNat s.rx.length) 0#8) ∧
      t = { s with rx := t.rx, status := 0x3200#16 })

/-- R68, R170: RXB stores its byte at read address 0x1000 + RX_LEN and nowhere else; a discarded byte is stored
nowhere. The premise is the invariant `InvBounds`. -/
def Obligations.RxbStoresOneByteAtTheEnd : Prop :=
  ∀ (s : State) (b : Byte), InvBounds s → ∃ t, exec (.rxb b) s = .next t ∧
    (s.rx.length < s.rxCap →
      readPort t (BitVec.ofNat 16 (0x1000 + s.rx.length)) = b.setWidth 64 ∧
      (readPort t 0x0018#16).toNat = s.rx.length + 1 ∧
      ∀ a : ReadAddr, a ≠ BitVec.ofNat 16 (0x1000 + s.rx.length) → a ≠ 0x0000#16 → a ≠ 0x0018#16 →
        readPort t a = readPort s a) ∧
    (s.rx.length = s.rxCap →
      ∀ a : ReadAddr, a ≠ 0x0000#16 → a ≠ 0x0001#16 → a ≠ 0x001C#16 → readPort t a = readPort s a)

/-- R174, R176 with R82, R83, R105, R106: VAL's four outcomes. A valid frame's fields are its seven-bit groups, low
group first; the signed fields hold those 28 bits as two's complement. -/
def Obligations.ValExtractsOrRejects : Prop :=
  ∀ s : State,
    (s.actValid = false →
      exec .val s = .next { s with status := 0x3303#16, errflags := s.errflags ||| 0x0008#16 }) ∧
    (s.actValid = true → s.rx.length < 14 + 8 * s.actCh.toNat →
      exec .val s = .next { s with status := 0x3304#16, errflags := s.errflags ||| 0x0010#16 }) ∧
    (s.actValid = true → 14 + 8 * s.actCh.toNat ≤ s.rx.length → ¬ TagsRight s.rx s.actCh.toNat →
      exec .val s = .next { s with
        rejectCount := s.rejectCount + 1#32, status := 0x3305#16, errflags := s.errflags ||| 0x0020#16 }) ∧
    (s.actValid = true → 14 + 8 * s.actCh.toNat ≤ s.rx.length → TagsRight s.rx s.actCh.toNat →
      ∃ t, exec .val s = .next t ∧
        t.measCount.toNat = groups s.rx 0 2 ∧ t.recBatRaw.toNat = groups s.rx 2 2 ∧
        t.emBatRaw.toNat = groups s.rx 4 2 ∧ t.iPRaw.toNat = groups s.rx 6 4 ∧
        t.iQRaw.toNat = groups s.rx 10 4 ∧
        (∀ k : Fin 255,
          (k.val < s.actCh.toNat →
            t.channels[k.val].vPRaw.toNat = groups s.rx (14 + 8 * k.val) 4 ∧
            t.channels[k.val].vQRaw.toNat = groups s.rx (18 + 8 * k.val) 4) ∧
          (s.actCh.toNat ≤ k.val →
            t.channels[k.val].vPRaw = s.channels[k.val].vPRaw ∧
            t.channels[k.val].vQRaw = s.channels[k.val].vQRaw) ∧
          t.channels[k.val] = { s.channels[k.val] with
            vPRaw := t.channels[k.val].vPRaw, vQRaw := t.channels[k.val].vQRaw, flags := 0#4 }) ∧
        t = { s with
          measCount := t.measCount, recBatRaw := t.recBatRaw, emBatRaw := t.emBatRaw, iPRaw := t.iPRaw,
          iQRaw := t.iQRaw, channels := t.channels, frameValid := true, frameCh := s.actCh, cvtFlags := 0#3,
          frameCount := s.frameCount + 1#32, status := 0x3300#16 })

/-- R101–R104: a field's encoding decodes to it, whatever follows, and DecS28 reads 28 bits as two's complement. -/
def Obligations.FieldEncodingDecodes : Prop :=
  (∀ (v : Nat) (rest : List Byte), v < 2 ^ 14 → decU14 (encField v 2 ++ rest) 0 = v) ∧
  (∀ (v : Int) (rest : List Byte), -2 ^ 27 ≤ v → v < 2 ^ 27 → decS28 (encField v 4 ++ rest) 0 = v) ∧
  (∀ (bs : List Byte) (o : Nat), decS28 bs o = (BitVec.ofNat 28 (decU bs o 4)).toInt)

/-- The validator meets the device's encoder (R82, R83, R104, R106, R176): a conforming frame at the front of the
buffer, whatever bytes follow it, is extracted, and every field register holds exactly the value that was sent. -/
def Obligations.ConformingFrameIsExtracted : Prop :=
  ∀ (s : State) (f : FrameFields) (rest : List Byte),
    s.actValid = true → f.Fits s.actCh.toNat → s.rx = encFrame f ++ rest →
      ∃ t, exec .val s = .next t ∧ statusCode t = 0#8 ∧ t.rx = s.rx ∧
        t.measCount.toNat = f.measureCount ∧ t.recBatRaw.toNat = f.recBatteryCode ∧
        t.emBatRaw.toNat = f.emBatteryCode ∧ t.iPRaw.toInt = f.phaseCurrentCode ∧
        t.iQRaw.toInt = f.quadCurrentCode ∧
        ∀ k : Fin 255, k.val < s.actCh.toNat →
          t.channels[k.val].vPRaw.toInt = f.phasePotentialCode.getD k.val 0 ∧
          t.channels[k.val].vQRaw.toInt = f.quadPotentialCode.getD k.val 0

/-- R105: "Any single violation → Rejected", and the payload bits [6:0] are never checked. -/
def Obligations.OneWrongTagRejects : Prop :=
  ∀ (rx : List Byte) (n i : Nat), 14 + 8 * n ≤ rx.length → i < 14 + 8 * n →
    (verdict rx n = .valid → verdict (rx.set i (rx.getD i 0#8 ^^^ 0x80#8)) n = .rejected) ∧
    ∀ p < 7, verdict (rx.set i (rx.getD i 0#8 ^^^ (1#8 <<< p))) n = verdict rx n

/-- R174, R176: with a whole frame in front, bytes that arrive later change neither verdict nor fields. -/
def Obligations.ValidatorReadsOnlyTheFront : Prop :=
  ∀ (rx later : List Byte) (n : Nat), 14 + 8 * n ≤ rx.length →
    verdict (rx ++ later) n = verdict rx n ∧ extract (rx ++ later) n = extract rx n

/-- R177: after FRAME_REJECTED, appending a byte cannot help. -/
def Obligations.RejectedFrontStaysRejected : Prop :=
  ∀ (s t u : State) (b : Byte), exec .val s = .next t → statusCode t = 5#8 → exec (.rxb b) t = .next u →
    ∃ v, exec .val u = .next v ∧ statusCode v = 5#8

/-- R291: VAL consumes nothing, so a second VAL extracts the same frame and counts it again. -/
def Obligations.RepeatedValCountsAgain : Prop :=
  ∀ s t : State, exec .val s = .next t → statusCode t = 0#8 →
    t.rx = s.rx ∧ exec .val t = .next { t with frameCount := t.frameCount + 1#32 }

/-- R175: the source's buffer states, with Candidate widened to RX_LEN ≥ REQ. -/
def Obligations.BufferStatesOfTheSource : Prop :=
  ∀ (rx : List Byte) (n : Nat),
    (bufferState rx n = .empty ↔ rx.length = 0) ∧
    (bufferState rx n = .accumulating ↔ 0 < rx.length ∧ rx.length < 14 + 8 * n) ∧
    (bufferState rx n = .validCandidate ↔ 14 + 8 * n ≤ rx.length ∧ tagOk rx n = true) ∧
    (bufferState rx n = .rejectedCandidate ↔ 14 + 8 * n ≤ rx.length ∧ tagOk rx n = false) ∧
    (isCandidate rx n = true ↔ 14 + 8 * n ≤ rx.length)

/-! Converter (44_converter.md). -/

/-- R201: CBAT. The converted values fit their registers. -/
def Obligations.CbatConvertsBatteries : Prop :=
  ∀ s : State,
    (s.frameValid = false →
      exec .cbat s = .next { s with status := 0x4006#16, errflags := s.errflags ||| 0x0040#16 }) ∧
    (s.frameValid = true → ∃ t, exec .cbat s = .next t ∧
      (t.recBatMv.toNat : Int) = rne (1199308800 * s.recBatRaw.toNat) 16383 ∧ t.recBatMv.toNat ≤ 1199308800 ∧
      (t.emBatMv.toNat : Int) = rne (1199308800 * s.emBatRaw.toNat) 16383 ∧ t.emBatMv.toNat ≤ 1199308800 ∧
      t = { s with
        recBatMv := t.recBatMv, emBatMv := t.emBatMv, cvtFlags := s.cvtFlags ||| 0b001#3, status := 0x4000#16 })

/-- R202: CCUR, its range, and rounding symmetric about zero. -/
def Obligations.CcurConvertsCurrents : Prop :=
  (∀ s : State,
    (s.frameValid = false →
      exec .ccur s = .next { s with status := 0x4106#16, errflags := s.errflags ||| 0x0040#16 }) ∧
    (s.frameValid = true → ∃ t, exec .ccur s = .next t ∧
      t.iPMa.toInt = rne (15625 * s.iPRaw.toInt) 1408 ∧ -1489454545 ≤ t.iPMa.toInt ∧ t.iPMa.toInt ≤ 1489454534 ∧
      t.iQMa.toInt = rne (15625 * s.iQRaw.toInt) 1408 ∧ -1489454545 ≤ t.iQMa.toInt ∧ t.iQMa.toInt ≤ 1489454534 ∧
      t = { s with
        iPMa := t.iPMa, iQMa := t.iQMa, cvtFlags := s.cvtFlags ||| 0b010#3, status := 0x4100#16 })) ∧
  (∀ r : Int, rne (15625 * -r) 1408 = -rne (15625 * r) 1408)

/-- R203: CMAGI, from the raw codes. -/
def Obligations.CmagiComputesTheCurrentMagnitude : Prop :=
  ∀ s : State,
    (s.frameValid = false →
      exec .cmagi s = .next { s with status := 0x4206#16, errflags := s.errflags ||| 0x0040#16 }) ∧
    (s.frameValid = true → ∃ t, exec .cmagi s = .next t ∧
      t.iMag.toNat = rnsqrt (244140625 * (s.iPRaw.toInt ^ 2 + s.iQRaw.toInt ^ 2).toNat) 1982464 ∧
      t.iMag.toNat ≤ 2106406819 ∧
      t = { s with iMag := t.iMag, cvtFlags := s.cvtFlags ||| 0b100#3, status := 0x4200#16 })

/-- R204: CPOT k; no other channel changes. -/
def Obligations.CpotConvertsOneChannel : Prop :=
  ∀ (s : State) (k : BitVec 8),
    (s.frameValid = false →
      exec (.cpot k) s = .next { s with status := 0x4306#16, errflags := s.errflags ||| 0x0040#16 }) ∧
    (s.frameValid = true → s.frameCh.toNat ≤ k.toNat →
      exec (.cpot k) s = .next { s with status := 0x4307#16, errflags := s.errflags ||| 0x0080#16 }) ∧
    (s.frameValid = true → k.toNat < s.frameCh.toNat → ∃ t, exec (.cpot k) s = .next t ∧
      (∀ j : Fin 255,
        (j.val ≠ k.toNat → t.channels[j.val] = s.channels[j.val]) ∧
        (j.val = k.toNat →
          t.channels[j.val].vPMv.toInt = 625 * s.channels[j.val].vPRaw.toInt ∧
          t.channels[j.val].vQMv.toInt = 625 * s.channels[j.val].vQRaw.toInt ∧
          t.channels[j.val] = { s.channels[j.val] with
            vPMv := t.channels[j.val].vPMv, vQMv := t.channels[j.val].vQMv,
            flags := s.channels[j.val].flags ||| 0b0001#4 })) ∧
      t = { s with channels := t.channels, status := 0x4300#16 })

/-- R205: CMAGV k; no other channel changes. -/
def Obligations.CmagvComputesOneMagnitude : Prop :=
  ∀ (s : State) (k : BitVec 8),
    (s.frameValid = false →
      exec (.cmagv k) s = .next { s with status := 0x4406#16, errflags := s.errflags ||| 0x0040#16 }) ∧
    (s.frameValid = true → s.frameCh.toNat ≤ k.toNat →
      exec (.cmagv k) s = .next { s with status := 0x4407#16, errflags := s.errflags ||| 0x0080#16 }) ∧
    (s.frameValid = true → k.toNat < s.frameCh.toNat → ∃ t, exec (.cmagv k) s = .next t ∧
      (∀ j : Fin 255,
        (j.val ≠ k.toNat → t.channels[j.val] = s.channels[j.val]) ∧
        (j.val = k.toNat →
          t.channels[j.val].vMag.toNat =
            rnsqrt (390625 * (s.channels[j.val].vPRaw.toInt ^ 2 + s.channels[j.val].vQRaw.toInt ^ 2).toNat) 1 ∧
          t.channels[j.val].vMag.toNat ≤ 118632832030 ∧
          t.channels[j.val] = { s.channels[j.val] with
            vMag := t.channels[j.val].vMag, flags := s.channels[j.val].flags ||| 0b0010#4 })) ∧
      t = { s with channels := t.channels, status := 0x4400#16 })

/-- R206: CRHO k. With both currents zero it writes the placeholder 0 and flags it. Otherwise the registers hold the
rounded quotients whole: that none is cut off is R206's own inference (Cauchy–Schwarz). -/
def Obligations.CrhoComputesOneResistivity : Prop :=
  ∀ (s : State) (k : BitVec 8),
    (s.frameValid = false →
      exec (.crho k) s = .next { s with status := 0x4506#16, errflags := s.errflags ||| 0x0040#16 }) ∧
    (s.frameValid = true → s.frameCh.toNat ≤ k.toNat →
      exec (.crho k) s = .next { s with status := 0x4507#16, errflags := s.errflags ||| 0x0080#16 }) ∧
    (s.frameValid = true → k.toNat < s.frameCh.toNat → ∃ t, exec (.crho k) s = .next t ∧
      (∀ j : Fin 255, j.val ≠ k.toNat → t.channels[j.val] = s.channels[j.val]) ∧
      (∀ j : Fin 255, j.val = k.toNat →
        t.channels[j.val] = { s.channels[j.val] with
          rhoP := t.channels[j.val].rhoP, rhoQ := t.channels[j.val].rhoQ, flags := t.channels[j.val].flags } ∧
        t.channels[j.val].flags.getLsbD 0 = s.channels[j.val].flags.getLsbD 0 ∧
        t.channels[j.val].flags.getLsbD 1 = s.channels[j.val].flags.getLsbD 1 ∧
        t.channels[j.val].flags.getLsbD 2 = true ∧
        (t.channels[j.val].flags.getLsbD 3 = true ↔ s.iPRaw = 0#28 ∧ s.iQRaw = 0#28) ∧
        (s.iPRaw = 0#28 → s.iQRaw = 0#28 → t.channels[j.val].rhoP = 0#64 ∧ t.channels[j.val].rhoQ = 0#64) ∧
        (¬ (s.iPRaw = 0#28 ∧ s.iQRaw = 0#28) →
          t.channels[j.val].rhoP.toInt = rne (7208960 * (s.channels[j.val].vPRaw.toInt * s.iPRaw.toInt +
            s.channels[j.val].vQRaw.toInt * s.iQRaw.toInt)) (s.iPRaw.toInt ^ 2 + s.iQRaw.toInt ^ 2) ∧
          t.channels[j.val].rhoQ.toInt = rne (7208960 * (s.channels[j.val].vQRaw.toInt * s.iPRaw.toInt -
            s.channels[j.val].vPRaw.toInt * s.iQRaw.toInt)) (s.iPRaw.toInt ^ 2 + s.iQRaw.toInt ^ 2))) ∧
      (s.iPRaw = 0#28 → s.iQRaw = 0#28 → t = { s with
        channels := t.channels, status := 0x4509#16, errflags := s.errflags ||| 0x0200#16 }) ∧
      (¬ (s.iPRaw = 0#28 ∧ s.iQRaw = 0#28) → t = { s with channels := t.channels, status := 0x4500#16 }))

/-- R207: CALL is CBAT, CCUR, CMAGI and then CPOT, CMAGV and CRHO on every channel of the frame, in order, but for
the one code it ends with. -/
def Obligations.CallIsItsCommandsInOrder : Prop :=
  ∀ s : State,
    (s.frameValid = false →
      exec .call s = .next { s with status := 0x4F06#16, errflags := s.errflags ||| 0x0040#16 }) ∧
    (s.frameValid = true →
      ∃ t u, exec .call s = .next t ∧ runAll (callSequence s.frameCh.toNat) s = .next u ∧
        t.cvtFlags = 0b111#3 ∧
        (∀ k : Fin 255, k.val < s.frameCh.toNat →
          t.channels[k.val].flags = if s.iPRaw = 0#28 ∧ s.iQRaw = 0#28 then 0b1111#4 else 0b0111#4) ∧
        ((0 < s.frameCh.toNat ∧ s.iPRaw = 0#28 ∧ s.iQRaw = 0#28 →
          t = { u with status := 0x4F09#16, errflags := s.errflags ||| 0x0200#16 }) ∧
        (¬ (0 < s.frameCh.toNat ∧ s.iPRaw = 0#28 ∧ s.iQRaw = 0#28) →
          t = { u with status := 0x4F00#16, errflags := s.errflags })))

/-- R200, R208: every converted register is the source's real quantity, in R200's unit and format, to within half a
unit in its last place; the potentials are exact. A magnitude m is compared by squares. The bound 2^51 on a
resistivity is R206's own inference. -/
def Obligations.RegistersAreTheRoundedRealQuantities : Prop :=
  (∀ r : BitVec 14, |fixedPoint (batteryMv r).toNat 16 - 1000 * batteryReal r.toNat| ≤ 1 / 2 ^ 17) ∧
  (∀ r : BitVec 28, |fixedPoint (currentMa r).toInt 16 - currentReal r.toInt| ≤ 1 / 2 ^ 17) ∧
  (∀ r : BitVec 28, fixedPoint (potentialMv r).toInt 25 = potentialReal r.toInt) ∧
  (∀ p q : BitVec 28, ∃ m : Nat, m = (currentMag (p.toInt ^ 2 + q.toInt ^ 2)).toNat ∧
    (m = 0 ∨ (2 * (m : ℚ) - 1) ^ 2 ≤ 4 * (magnitudeSq (currentReal p.toInt) (currentReal q.toInt) * 2 ^ 32)) ∧
    4 * (magnitudeSq (currentReal p.toInt) (currentReal q.toInt) * 2 ^ 32) ≤ (2 * (m : ℚ) + 1) ^ 2) ∧
  (∀ p q : BitVec 28, ∃ m : Nat, m = (potentialMag (p.toInt ^ 2 + q.toInt ^ 2)).toNat ∧
    (m = 0 ∨ (2 * (m : ℚ) - 1) ^ 2 ≤ 4 * (magnitudeSq (potentialReal p.toInt) (potentialReal q.toInt) * 2 ^ 50)) ∧
    4 * (magnitudeSq (potentialReal p.toInt) (potentialReal q.toInt) * 2 ^ 50) ≤ (2 * (m : ℚ) + 1) ^ 2) ∧
  (∀ ip iq vp vq : BitVec 28, ¬ (ip = 0#28 ∧ iq = 0#28) →
    |fixedPoint (resistivity (vp.toInt * ip.toInt + vq.toInt * iq.toInt) (ip.toInt ^ 2 + iq.toInt ^ 2)).toInt 16 -
      phaseRho (potentialReal vp.toInt) (potentialReal vq.toInt) (currentReal ip.toInt) (currentReal iq.toInt)|
        ≤ 1 / 2 ^ 17 ∧
    |fixedPoint (resistivity (vq.toInt * ip.toInt - vp.toInt * iq.toInt) (ip.toInt ^ 2 + iq.toInt ^ 2)).toInt 16 -
      quadRho (potentialReal vp.toInt) (potentialReal vq.toInt) (currentReal ip.toInt) (currentReal iq.toInt)|
        ≤ 1 / 2 ^ 17 ∧
    |(resistivity (vp.toInt * ip.toInt + vq.toInt * iq.toInt) (ip.toInt ^ 2 + iq.toInt ^ 2)).toInt| < 2 ^ 51 ∧
    |(resistivity (vq.toInt * ip.toInt - vp.toInt * iq.toInt) (ip.toInt ^ 2 + iq.toInt ^ 2)).toInt| < 2 ^ 51)

/-- R209: a conversion repeated writes the same values again, and two conversions may run in either order. -/
def Obligations.ConversionsRepeatAndCommute : Prop :=
  (∀ (i : Instr) (s t : State), isConversion i = true → exec i s = .next t → exec i t = .next t) ∧
  (∀ (i j : Instr) (s ti tij tj tji : State), isConversion i = true → isConversion j = true →
    exec i s = .next ti → exec j ti = .next tij → exec j s = .next tj → exec i tj = .next tji →
    tij = { tji with status := tij.status })

/-! Rounding (00_scope.md). -/

/-- R13: RNE is a nearest integer, and the even one at a tie. -/
def Obligations.RoundingIsToNearestEven : Prop :=
  ∀ a b : Int, 0 < b →
    (∀ m : Int, |(a : ℚ) / b - rne a b| ≤ |(a : ℚ) / b - m|) ∧
    (|(a : ℚ) / b - rne a b| = 1 / 2 → rne a b % 2 = 0)

/-- R14: ISQRT is the largest integer whose square fits, and RNSQRT the nearest integer to sqrt(A/B), the even one at
a tie; both are told by squares. -/
def Obligations.SquareRootsAreNearest : Prop :=
  (∀ n r : Nat, r * r ≤ n ↔ r ≤ isqrt n) ∧
  (∀ a b : Nat, 0 < b →
    4 * a ≤ b * (2 * rnsqrt a b + 1) ^ 2 ∧
    (0 < rnsqrt a b → b * (2 * rnsqrt a b - 1) ^ 2 ≤ 4 * a) ∧
    (4 * a = b * (2 * rnsqrt a b + 1) ^ 2 → rnsqrt a b % 2 = 0) ∧
    (0 < rnsqrt a b → 4 * a = b * (2 * rnsqrt a b - 1) ^ 2 → rnsqrt a b % 2 = 0))
end

