-- ==== Sys2Proof/Laws/Arith.lean ====
section
/-! SUPPORT. What RNE and ISQRT give (R13, R14), as integer inequalities. -/

namespace Sys2Proof.Machine

/-- RNE is one of the two neighbours, by the remainder. -/
theorem rne_cases (a b : Int) :
    (rne a b = a / b ∧ 2 * (a % b) ≤ b) ∨ (rne a b = a / b + 1 ∧ b ≤ 2 * (a % b)) := by
  have h : a - b * (a / b) = a % b := by
    have := Int.emod_add_mul_ediv a b
    linarith
  simp only [rne, h]
  split
  · omega
  · split
    · omega
    · split <;> omega

/-- Twice the error of RNE is at most the divisor. -/
theorem rne_bounds (a b : Int) (hb : 0 < b) : 2 * a - b ≤ 2 * (b * rne a b) ∧ 2 * (b * rne a b) ≤ 2 * a + b := by
  have h := Int.emod_add_mul_ediv a b
  have h0 := Int.emod_nonneg a (by omega : b ≠ 0)
  have h1 := Int.emod_lt_of_pos a hb
  rcases rne_cases a b with ⟨e, hr⟩ | ⟨e, hr⟩
  · rw [e]; constructor <;> linarith
  · rw [e, Int.mul_add]; constructor <;> linarith

/-- At a tie RNE is even. -/
theorem rne_even_of_tie (a b : Int) (h : 2 * (a % b) = b) : rne a b % 2 = 0 := by
  have hm : a - b * (a / b) = a % b := by
    have := Int.emod_add_mul_ediv a b
    linarith
  simp only [rne, hm]
  rw [if_neg (by omega), if_neg (by omega)]
  split <;> omega

/-- RNE of an exact quotient. -/
theorem rne_mul_self (q b : Int) (hb : 0 < b) : rne (q * b) b = q := by
  have hq : q * b / b = q := Int.mul_ediv_cancel q (by omega)
  simp only [rne, hq]
  rw [if_pos (by rw [Int.mul_comm b q]; omega)]

/-- An integer within half a unit is the only candidate, so RNE keeps bounds. -/
theorem rne_le (a b m : Int) (hb : 0 < b) (h : a ≤ m * b) : rne a b ≤ m := by
  have := (rne_bounds a b hb).2
  by_contra hc
  have hm : m + 1 ≤ rne a b := by omega
  have h2 : b * (m + 1) ≤ b * rne a b := Int.mul_le_mul_of_nonneg_left hm (by omega)
  have h3 : b * (m + 1) = m * b + b := by ring
  omega

/-- RNE keeps lower bounds. -/
theorem le_rne (a b m : Int) (hb : 0 < b) (h : m * b ≤ a) : m ≤ rne a b := by
  have := (rne_bounds a b hb).1
  by_contra hc
  have hm : rne a b + 1 ≤ m := by omega
  have h2 : b * (rne a b + 1) ≤ b * m := Int.mul_le_mul_of_nonneg_left hm (by omega)
  have h3 : b * (rne a b + 1) = b * rne a b + b := by ring
  have h4 : b * m = m * b := by ring
  omega

/-- The bitwise search keeps r² ≤ n and ends within 1 of the root. -/
theorem isqrtBits_spec (n b r : Nat) (h1 : r * r ≤ n) (h2 : n < (r + 2 ^ b) * (r + 2 ^ b)) :
    isqrtBits n b r * isqrtBits n b r ≤ n ∧ n < (isqrtBits n b r + 1) * (isqrtBits n b r + 1) := by
  induction b generalizing r with
  | zero => simpa [isqrtBits] using ⟨h1, h2⟩
  | succ b ih =>
    unfold isqrtBits
    split
    · rename_i h
      apply ih _ h
      rwa [show r + 2 ^ b + 2 ^ b = r + 2 ^ (b + 1) by rw [Nat.pow_succ]; omega]
    · rename_i h
      exact ih _ h1 (by omega)

/-- ISQRT (R14): r² ≤ n < (r + 1)². -/
theorem isqrt_spec (n : Nat) : isqrt n * isqrt n ≤ n ∧ n < (isqrt n + 1) * (isqrt n + 1) := by
  apply isqrtBits_spec
  · omega
  · rw [Nat.zero_add, ← Nat.pow_add]
    refine lt_of_lt_of_le Nat.lt_log2_self (Nat.pow_le_pow_right (by omega) ?_)
    omega

end Sys2Proof.Machine
end

