-- ==== Sys2Proof/Laws/State.lean ====
section
/-! SUPPORT. One lemma for each field of State under each named update of the machine, so that no later proof
unfolds an update. All hold by definition: the update is unfolded once, here. -/

namespace Sys2Proof.Machine

@[simp] theorem finish_status (op : Byte) (c : ResultCode) (s : State) :
    (finish op c s).status = statusWord op c := by unfold finish; rfl
@[simp] theorem finish_errflags (op : Byte) (c : ResultCode) (s : State) :
    (finish op c s).errflags = raiseFlag s.errflags c := by unfold finish; rfl
@[simp] theorem finish_cfgVolt (op : Byte) (c : ResultCode) (s : State) :
    (finish op c s).cfgVolt = s.cfgVolt := by unfold finish; rfl
@[simp] theorem finish_cfgFreq (op : Byte) (c : ResultCode) (s : State) :
    (finish op c s).cfgFreq = s.cfgFreq := by unfold finish; rfl
@[simp] theorem finish_cfgImp (op : Byte) (c : ResultCode) (s : State) :
    (finish op c s).cfgImp = s.cfgImp := by unfold finish; rfl
@[simp] theorem finish_cfgCh (op : Byte) (c : ResultCode) (s : State) :
    (finish op c s).cfgCh = s.cfgCh := by unfold finish; rfl
@[simp] theorem finish_cfgInt (op : Byte) (c : ResultCode) (s : State) :
    (finish op c s).cfgInt = s.cfgInt := by unfold finish; rfl
@[simp] theorem finish_cfgValid (op : Byte) (c : ResultCode) (s : State) :
    (finish op c s).cfgValid = s.cfgValid := by unfold finish; rfl
@[simp] theorem finish_ux (op : Byte) (c : ResultCode) (s : State) :
    (finish op c s).ux = s.ux := by unfold finish; rfl
@[simp] theorem finish_fx (op : Byte) (c : ResultCode) (s : State) :
    (finish op c s).fx = s.fx := by unfold finish; rfl
@[simp] theorem finish_encCh (op : Byte) (c : ResultCode) (s : State) :
    (finish op c s).encCh = s.encCh := by unfold finish; rfl
@[simp] theorem finish_cframe (op : Byte) (c : ResultCode) (s : State) :
    (finish op c s).cframe = s.cframe := by unfold finish; rfl
@[simp] theorem finish_ackLen (op : Byte) (c : ResultCode) (s : State) :
    (finish op c s).ackLen = s.ackLen := by unfold finish; rfl
@[simp] theorem finish_ackbuf (op : Byte) (c : ResultCode) (s : State) :
    (finish op c s).ackbuf = s.ackbuf := by unfold finish; rfl
@[simp] theorem finish_ackOk (op : Byte) (c : ResultCode) (s : State) :
    (finish op c s).ackOk = s.ackOk := by unfold finish; rfl
@[simp] theorem finish_run (op : Byte) (c : ResultCode) (s : State) :
    (finish op c s).run = s.run := by unfold finish; rfl
@[simp] theorem finish_boardId (op : Byte) (c : ResultCode) (s : State) :
    (finish op c s).boardId = s.boardId := by unfold finish; rfl
@[simp] theorem finish_actValid (op : Byte) (c : ResultCode) (s : State) :
    (finish op c s).actValid = s.actValid := by unfold finish; rfl
@[simp] theorem finish_actCh (op : Byte) (c : ResultCode) (s : State) :
    (finish op c s).actCh = s.actCh := by unfold finish; rfl
@[simp] theorem finish_rx (op : Byte) (c : ResultCode) (s : State) :
    (finish op c s).rx = s.rx := by unfold finish; rfl
@[simp] theorem finish_frameCount (op : Byte) (c : ResultCode) (s : State) :
    (finish op c s).frameCount = s.frameCount := by unfold finish; rfl
@[simp] theorem finish_rejectCount (op : Byte) (c : ResultCode) (s : State) :
    (finish op c s).rejectCount = s.rejectCount := by unfold finish; rfl
@[simp] theorem finish_ovfCount (op : Byte) (c : ResultCode) (s : State) :
    (finish op c s).ovfCount = s.ovfCount := by unfold finish; rfl
@[simp] theorem finish_frameValid (op : Byte) (c : ResultCode) (s : State) :
    (finish op c s).frameValid = s.frameValid := by unfold finish; rfl
@[simp] theorem finish_frameCh (op : Byte) (c : ResultCode) (s : State) :
    (finish op c s).frameCh = s.frameCh := by unfold finish; rfl
@[simp] theorem finish_measCount (op : Byte) (c : ResultCode) (s : State) :
    (finish op c s).measCount = s.measCount := by unfold finish; rfl
@[simp] theorem finish_recBatRaw (op : Byte) (c : ResultCode) (s : State) :
    (finish op c s).recBatRaw = s.recBatRaw := by unfold finish; rfl
@[simp] theorem finish_emBatRaw (op : Byte) (c : ResultCode) (s : State) :
    (finish op c s).emBatRaw = s.emBatRaw := by unfold finish; rfl
@[simp] theorem finish_iPRaw (op : Byte) (c : ResultCode) (s : State) :
    (finish op c s).iPRaw = s.iPRaw := by unfold finish; rfl
@[simp] theorem finish_iQRaw (op : Byte) (c : ResultCode) (s : State) :
    (finish op c s).iQRaw = s.iQRaw := by unfold finish; rfl
@[simp] theorem finish_recBatMv (op : Byte) (c : ResultCode) (s : State) :
    (finish op c s).recBatMv = s.recBatMv := by unfold finish; rfl
@[simp] theorem finish_emBatMv (op : Byte) (c : ResultCode) (s : State) :
    (finish op c s).emBatMv = s.emBatMv := by unfold finish; rfl
@[simp] theorem finish_iPMa (op : Byte) (c : ResultCode) (s : State) :
    (finish op c s).iPMa = s.iPMa := by unfold finish; rfl
@[simp] theorem finish_iQMa (op : Byte) (c : ResultCode) (s : State) :
    (finish op c s).iQMa = s.iQMa := by unfold finish; rfl
@[simp] theorem finish_iMag (op : Byte) (c : ResultCode) (s : State) :
    (finish op c s).iMag = s.iMag := by unfold finish; rfl
@[simp] theorem finish_cvtFlags (op : Byte) (c : ResultCode) (s : State) :
    (finish op c s).cvtFlags = s.cvtFlags := by unfold finish; rfl
@[simp] theorem finish_channels (op : Byte) (c : ResultCode) (s : State) :
    (finish op c s).channels = s.channels := by unfold finish; rfl
@[simp] theorem finish_rxCap (op : Byte) (c : ResultCode) (s : State) :
    (finish op c s).rxCap = s.rxCap := by unfold finish; rfl
@[simp] theorem finish_hostInputs (op : Byte) (c : ResultCode) (s : State) :
    (finish op c s).hostInputs = s.hostInputs := by unfold finish; rfl
@[simp] theorem finish_hostPc (op : Byte) (c : ResultCode) (s : State) :
    (finish op c s).hostPc = s.hostPc := by unfold finish; rfl
@[simp] theorem finish_hostRead (op : Byte) (c : ResultCode) (s : State) :
    (finish op c s).hostRead = s.hostRead := by unfold finish; rfl

@[simp] theorem takeInput_status (rest : List HostInput) (s : State) :
    (takeInput rest s).status = s.status := by unfold takeInput; rfl
@[simp] theorem takeInput_errflags (rest : List HostInput) (s : State) :
    (takeInput rest s).errflags = s.errflags := by unfold takeInput; rfl
@[simp] theorem takeInput_cfgVolt (rest : List HostInput) (s : State) :
    (takeInput rest s).cfgVolt = s.cfgVolt := by unfold takeInput; rfl
@[simp] theorem takeInput_cfgFreq (rest : List HostInput) (s : State) :
    (takeInput rest s).cfgFreq = s.cfgFreq := by unfold takeInput; rfl
@[simp] theorem takeInput_cfgImp (rest : List HostInput) (s : State) :
    (takeInput rest s).cfgImp = s.cfgImp := by unfold takeInput; rfl
@[simp] theorem takeInput_cfgCh (rest : List HostInput) (s : State) :
    (takeInput rest s).cfgCh = s.cfgCh := by unfold takeInput; rfl
@[simp] theorem takeInput_cfgInt (rest : List HostInput) (s : State) :
    (takeInput rest s).cfgInt = s.cfgInt := by unfold takeInput; rfl
@[simp] theorem takeInput_cfgValid (rest : List HostInput) (s : State) :
    (takeInput rest s).cfgValid = s.cfgValid := by unfold takeInput; rfl
@[simp] theorem takeInput_ux (rest : List HostInput) (s : State) :
    (takeInput rest s).ux = s.ux := by unfold takeInput; rfl
@[simp] theorem takeInput_fx (rest : List HostInput) (s : State) :
    (takeInput rest s).fx = s.fx := by unfold takeInput; rfl
@[simp] theorem takeInput_encCh (rest : List HostInput) (s : State) :
    (takeInput rest s).encCh = s.encCh := by unfold takeInput; rfl
@[simp] theorem takeInput_cframe (rest : List HostInput) (s : State) :
    (takeInput rest s).cframe = s.cframe := by unfold takeInput; rfl
@[simp] theorem takeInput_ackLen (rest : List HostInput) (s : State) :
    (takeInput rest s).ackLen = s.ackLen := by unfold takeInput; rfl
@[simp] theorem takeInput_ackbuf (rest : List HostInput) (s : State) :
    (takeInput rest s).ackbuf = s.ackbuf := by unfold takeInput; rfl
@[simp] theorem takeInput_ackOk (rest : List HostInput) (s : State) :
    (takeInput rest s).ackOk = s.ackOk := by unfold takeInput; rfl
@[simp] theorem takeInput_run (rest : List HostInput) (s : State) :
    (takeInput rest s).run = s.run := by unfold takeInput; rfl
@[simp] theorem takeInput_boardId (rest : List HostInput) (s : State) :
    (takeInput rest s).boardId = s.boardId := by unfold takeInput; rfl
@[simp] theorem takeInput_actValid (rest : List HostInput) (s : State) :
    (takeInput rest s).actValid = s.actValid := by unfold takeInput; rfl
@[simp] theorem takeInput_actCh (rest : List HostInput) (s : State) :
    (takeInput rest s).actCh = s.actCh := by unfold takeInput; rfl
@[simp] theorem takeInput_rx (rest : List HostInput) (s : State) :
    (takeInput rest s).rx = s.rx := by unfold takeInput; rfl
@[simp] theorem takeInput_frameCount (rest : List HostInput) (s : State) :
    (takeInput rest s).frameCount = s.frameCount := by unfold takeInput; rfl
@[simp] theorem takeInput_rejectCount (rest : List HostInput) (s : State) :
    (takeInput rest s).rejectCount = s.rejectCount := by unfold takeInput; rfl
@[simp] theorem takeInput_ovfCount (rest : List HostInput) (s : State) :
    (takeInput rest s).ovfCount = s.ovfCount := by unfold takeInput; rfl
@[simp] theorem takeInput_frameValid (rest : List HostInput) (s : State) :
    (takeInput rest s).frameValid = s.frameValid := by unfold takeInput; rfl
@[simp] theorem takeInput_frameCh (rest : List HostInput) (s : State) :
    (takeInput rest s).frameCh = s.frameCh := by unfold takeInput; rfl
@[simp] theorem takeInput_measCount (rest : List HostInput) (s : State) :
    (takeInput rest s).measCount = s.measCount := by unfold takeInput; rfl
@[simp] theorem takeInput_recBatRaw (rest : List HostInput) (s : State) :
    (takeInput rest s).recBatRaw = s.recBatRaw := by unfold takeInput; rfl
@[simp] theorem takeInput_emBatRaw (rest : List HostInput) (s : State) :
    (takeInput rest s).emBatRaw = s.emBatRaw := by unfold takeInput; rfl
@[simp] theorem takeInput_iPRaw (rest : List HostInput) (s : State) :
    (takeInput rest s).iPRaw = s.iPRaw := by unfold takeInput; rfl
@[simp] theorem takeInput_iQRaw (rest : List HostInput) (s : State) :
    (takeInput rest s).iQRaw = s.iQRaw := by unfold takeInput; rfl
@[simp] theorem takeInput_recBatMv (rest : List HostInput) (s : State) :
    (takeInput rest s).recBatMv = s.recBatMv := by unfold takeInput; rfl
@[simp] theorem takeInput_emBatMv (rest : List HostInput) (s : State) :
    (takeInput rest s).emBatMv = s.emBatMv := by unfold takeInput; rfl
@[simp] theorem takeInput_iPMa (rest : List HostInput) (s : State) :
    (takeInput rest s).iPMa = s.iPMa := by unfold takeInput; rfl
@[simp] theorem takeInput_iQMa (rest : List HostInput) (s : State) :
    (takeInput rest s).iQMa = s.iQMa := by unfold takeInput; rfl
@[simp] theorem takeInput_iMag (rest : List HostInput) (s : State) :
    (takeInput rest s).iMag = s.iMag := by unfold takeInput; rfl
@[simp] theorem takeInput_cvtFlags (rest : List HostInput) (s : State) :
    (takeInput rest s).cvtFlags = s.cvtFlags := by unfold takeInput; rfl
@[simp] theorem takeInput_channels (rest : List HostInput) (s : State) :
    (takeInput rest s).channels = s.channels := by unfold takeInput; rfl
@[simp] theorem takeInput_rxCap (rest : List HostInput) (s : State) :
    (takeInput rest s).rxCap = s.rxCap := by unfold takeInput; rfl
@[simp] theorem takeInput_hostInputs (rest : List HostInput) (s : State) :
    (takeInput rest s).hostInputs = rest := by unfold takeInput; rfl
@[simp] theorem takeInput_hostPc (rest : List HostInput) (s : State) :
    (takeInput rest s).hostPc = s.hostPc := by unfold takeInput; rfl
@[simp] theorem takeInput_hostRead (rest : List HostInput) (s : State) :
    (takeInput rest s).hostRead = s.hostRead := by unfold takeInput; rfl

@[simp] theorem takeCommand_status (rest : List HostInput) (s : State) :
    (takeCommand rest s).status = s.status := by unfold takeCommand; rfl
@[simp] theorem takeCommand_errflags (rest : List HostInput) (s : State) :
    (takeCommand rest s).errflags = s.errflags := by unfold takeCommand; rfl
@[simp] theorem takeCommand_cfgVolt (rest : List HostInput) (s : State) :
    (takeCommand rest s).cfgVolt = s.cfgVolt := by unfold takeCommand; rfl
@[simp] theorem takeCommand_cfgFreq (rest : List HostInput) (s : State) :
    (takeCommand rest s).cfgFreq = s.cfgFreq := by unfold takeCommand; rfl
@[simp] theorem takeCommand_cfgImp (rest : List HostInput) (s : State) :
    (takeCommand rest s).cfgImp = s.cfgImp := by unfold takeCommand; rfl
@[simp] theorem takeCommand_cfgCh (rest : List HostInput) (s : State) :
    (takeCommand rest s).cfgCh = s.cfgCh := by unfold takeCommand; rfl
@[simp] theorem takeCommand_cfgInt (rest : List HostInput) (s : State) :
    (takeCommand rest s).cfgInt = s.cfgInt := by unfold takeCommand; rfl
@[simp] theorem takeCommand_cfgValid (rest : List HostInput) (s : State) :
    (takeCommand rest s).cfgValid = s.cfgValid := by unfold takeCommand; rfl
@[simp] theorem takeCommand_ux (rest : List HostInput) (s : State) :
    (takeCommand rest s).ux = s.ux := by unfold takeCommand; rfl
@[simp] theorem takeCommand_fx (rest : List HostInput) (s : State) :
    (takeCommand rest s).fx = s.fx := by unfold takeCommand; rfl
@[simp] theorem takeCommand_encCh (rest : List HostInput) (s : State) :
    (takeCommand rest s).encCh = s.encCh := by unfold takeCommand; rfl
@[simp] theorem takeCommand_cframe (rest : List HostInput) (s : State) :
    (takeCommand rest s).cframe = s.cframe := by unfold takeCommand; rfl
@[simp] theorem takeCommand_ackLen (rest : List HostInput) (s : State) :
    (takeCommand rest s).ackLen = s.ackLen := by unfold takeCommand; rfl
@[simp] theorem takeCommand_ackbuf (rest : List HostInput) (s : State) :
    (takeCommand rest s).ackbuf = s.ackbuf := by unfold takeCommand; rfl
@[simp] theorem takeCommand_ackOk (rest : List HostInput) (s : State) :
    (takeCommand rest s).ackOk = s.ackOk := by unfold takeCommand; rfl
@[simp] theorem takeCommand_run (rest : List HostInput) (s : State) :
    (takeCommand rest s).run = s.run := by unfold takeCommand; rfl
@[simp] theorem takeCommand_boardId (rest : List HostInput) (s : State) :
    (takeCommand rest s).boardId = s.boardId := by unfold takeCommand; rfl
@[simp] theorem takeCommand_actValid (rest : List HostInput) (s : State) :
    (takeCommand rest s).actValid = s.actValid := by unfold takeCommand; rfl
@[simp] theorem takeCommand_actCh (rest : List HostInput) (s : State) :
    (takeCommand rest s).actCh = s.actCh := by unfold takeCommand; rfl
@[simp] theorem takeCommand_rx (rest : List HostInput) (s : State) :
    (takeCommand rest s).rx = s.rx := by unfold takeCommand; rfl
@[simp] theorem takeCommand_frameCount (rest : List HostInput) (s : State) :
    (takeCommand rest s).frameCount = s.frameCount := by unfold takeCommand; rfl
@[simp] theorem takeCommand_rejectCount (rest : List HostInput) (s : State) :
    (takeCommand rest s).rejectCount = s.rejectCount := by unfold takeCommand; rfl
@[simp] theorem takeCommand_ovfCount (rest : List HostInput) (s : State) :
    (takeCommand rest s).ovfCount = s.ovfCount := by unfold takeCommand; rfl
@[simp] theorem takeCommand_frameValid (rest : List HostInput) (s : State) :
    (takeCommand rest s).frameValid = s.frameValid := by unfold takeCommand; rfl
@[simp] theorem takeCommand_frameCh (rest : List HostInput) (s : State) :
    (takeCommand rest s).frameCh = s.frameCh := by unfold takeCommand; rfl
@[simp] theorem takeCommand_measCount (rest : List HostInput) (s : State) :
    (takeCommand rest s).measCount = s.measCount := by unfold takeCommand; rfl
@[simp] theorem takeCommand_recBatRaw (rest : List HostInput) (s : State) :
    (takeCommand rest s).recBatRaw = s.recBatRaw := by unfold takeCommand; rfl
@[simp] theorem takeCommand_emBatRaw (rest : List HostInput) (s : State) :
    (takeCommand rest s).emBatRaw = s.emBatRaw := by unfold takeCommand; rfl
@[simp] theorem takeCommand_iPRaw (rest : List HostInput) (s : State) :
    (takeCommand rest s).iPRaw = s.iPRaw := by unfold takeCommand; rfl
@[simp] theorem takeCommand_iQRaw (rest : List HostInput) (s : State) :
    (takeCommand rest s).iQRaw = s.iQRaw := by unfold takeCommand; rfl
@[simp] theorem takeCommand_recBatMv (rest : List HostInput) (s : State) :
    (takeCommand rest s).recBatMv = s.recBatMv := by unfold takeCommand; rfl
@[simp] theorem takeCommand_emBatMv (rest : List HostInput) (s : State) :
    (takeCommand rest s).emBatMv = s.emBatMv := by unfold takeCommand; rfl
@[simp] theorem takeCommand_iPMa (rest : List HostInput) (s : State) :
    (takeCommand rest s).iPMa = s.iPMa := by unfold takeCommand; rfl
@[simp] theorem takeCommand_iQMa (rest : List HostInput) (s : State) :
    (takeCommand rest s).iQMa = s.iQMa := by unfold takeCommand; rfl
@[simp] theorem takeCommand_iMag (rest : List HostInput) (s : State) :
    (takeCommand rest s).iMag = s.iMag := by unfold takeCommand; rfl
@[simp] theorem takeCommand_cvtFlags (rest : List HostInput) (s : State) :
    (takeCommand rest s).cvtFlags = s.cvtFlags := by unfold takeCommand; rfl
@[simp] theorem takeCommand_channels (rest : List HostInput) (s : State) :
    (takeCommand rest s).channels = s.channels := by unfold takeCommand; rfl
@[simp] theorem takeCommand_rxCap (rest : List HostInput) (s : State) :
    (takeCommand rest s).rxCap = s.rxCap := by unfold takeCommand; rfl
@[simp] theorem takeCommand_hostInputs (rest : List HostInput) (s : State) :
    (takeCommand rest s).hostInputs = rest := by unfold takeCommand; rfl
@[simp] theorem takeCommand_hostPc (rest : List HostInput) (s : State) :
    (takeCommand rest s).hostPc = s.hostPc + 1 := by unfold takeCommand; rfl
@[simp] theorem takeCommand_hostRead (rest : List HostInput) (s : State) :
    (takeCommand rest s).hostRead = s.hostRead := by unfold takeCommand; rfl

@[simp] theorem answerRead_status (d : ReadData) (s : State) :
    (answerRead d s).status = s.status := by unfold answerRead; rfl
@[simp] theorem answerRead_errflags (d : ReadData) (s : State) :
    (answerRead d s).errflags = s.errflags := by unfold answerRead; rfl
@[simp] theorem answerRead_cfgVolt (d : ReadData) (s : State) :
    (answerRead d s).cfgVolt = s.cfgVolt := by unfold answerRead; rfl
@[simp] theorem answerRead_cfgFreq (d : ReadData) (s : State) :
    (answerRead d s).cfgFreq = s.cfgFreq := by unfold answerRead; rfl
@[simp] theorem answerRead_cfgImp (d : ReadData) (s : State) :
    (answerRead d s).cfgImp = s.cfgImp := by unfold answerRead; rfl
@[simp] theorem answerRead_cfgCh (d : ReadData) (s : State) :
    (answerRead d s).cfgCh = s.cfgCh := by unfold answerRead; rfl
@[simp] theorem answerRead_cfgInt (d : ReadData) (s : State) :
    (answerRead d s).cfgInt = s.cfgInt := by unfold answerRead; rfl
@[simp] theorem answerRead_cfgValid (d : ReadData) (s : State) :
    (answerRead d s).cfgValid = s.cfgValid := by unfold answerRead; rfl
@[simp] theorem answerRead_ux (d : ReadData) (s : State) : (answerRead d s).ux = s.ux := by unfold answerRead; rfl
@[simp] theorem answerRead_fx (d : ReadData) (s : State) : (answerRead d s).fx = s.fx := by unfold answerRead; rfl
@[simp] theorem answerRead_encCh (d : ReadData) (s : State) :
    (answerRead d s).encCh = s.encCh := by unfold answerRead; rfl
@[simp] theorem answerRead_cframe (d : ReadData) (s : State) :
    (answerRead d s).cframe = s.cframe := by unfold answerRead; rfl
@[simp] theorem answerRead_ackLen (d : ReadData) (s : State) :
    (answerRead d s).ackLen = s.ackLen := by unfold answerRead; rfl
@[simp] theorem answerRead_ackbuf (d : ReadData) (s : State) :
    (answerRead d s).ackbuf = s.ackbuf := by unfold answerRead; rfl
@[simp] theorem answerRead_ackOk (d : ReadData) (s : State) :
    (answerRead d s).ackOk = s.ackOk := by unfold answerRead; rfl
@[simp] theorem answerRead_run (d : ReadData) (s : State) : (answerRead d s).run = s.run := by unfold answerRead; rfl
@[simp] theorem answerRead_boardId (d : ReadData) (s : State) :
    (answerRead d s).boardId = s.boardId := by unfold answerRead; rfl
@[simp] theorem answerRead_actValid (d : ReadData) (s : State) :
    (answerRead d s).actValid = s.actValid := by unfold answerRead; rfl
@[simp] theorem answerRead_actCh (d : ReadData) (s : State) :
    (answerRead d s).actCh = s.actCh := by unfold answerRead; rfl
@[simp] theorem answerRead_rx (d : ReadData) (s : State) : (answerRead d s).rx = s.rx := by unfold answerRead; rfl
@[simp] theorem answerRead_frameCount (d : ReadData) (s : State) :
    (answerRead d s).frameCount = s.frameCount := by unfold answerRead; rfl
@[simp] theorem answerRead_rejectCount (d : ReadData) (s : State) :
    (answerRead d s).rejectCount = s.rejectCount := by unfold answerRead; rfl
@[simp] theorem answerRead_ovfCount (d : ReadData) (s : State) :
    (answerRead d s).ovfCount = s.ovfCount := by unfold answerRead; rfl
@[simp] theorem answerRead_frameValid (d : ReadData) (s : State) :
    (answerRead d s).frameValid = s.frameValid := by unfold answerRead; rfl
@[simp] theorem answerRead_frameCh (d : ReadData) (s : State) :
    (answerRead d s).frameCh = s.frameCh := by unfold answerRead; rfl
@[simp] theorem answerRead_measCount (d : ReadData) (s : State) :
    (answerRead d s).measCount = s.measCount := by unfold answerRead; rfl
@[simp] theorem answerRead_recBatRaw (d : ReadData) (s : State) :
    (answerRead d s).recBatRaw = s.recBatRaw := by unfold answerRead; rfl
@[simp] theorem answerRead_emBatRaw (d : ReadData) (s : State) :
    (answerRead d s).emBatRaw = s.emBatRaw := by unfold answerRead; rfl
@[simp] theorem answerRead_iPRaw (d : ReadData) (s : State) :
    (answerRead d s).iPRaw = s.iPRaw := by unfold answerRead; rfl
@[simp] theorem answerRead_iQRaw (d : ReadData) (s : State) :
    (answerRead d s).iQRaw = s.iQRaw := by unfold answerRead; rfl
@[simp] theorem answerRead_recBatMv (d : ReadData) (s : State) :
    (answerRead d s).recBatMv = s.recBatMv := by unfold answerRead; rfl
@[simp] theorem answerRead_emBatMv (d : ReadData) (s : State) :
    (answerRead d s).emBatMv = s.emBatMv := by unfold answerRead; rfl
@[simp] theorem answerRead_iPMa (d : ReadData) (s : State) :
    (answerRead d s).iPMa = s.iPMa := by unfold answerRead; rfl
@[simp] theorem answerRead_iQMa (d : ReadData) (s : State) :
    (answerRead d s).iQMa = s.iQMa := by unfold answerRead; rfl
@[simp] theorem answerRead_iMag (d : ReadData) (s : State) :
    (answerRead d s).iMag = s.iMag := by unfold answerRead; rfl
@[simp] theorem answerRead_cvtFlags (d : ReadData) (s : State) :
    (answerRead d s).cvtFlags = s.cvtFlags := by unfold answerRead; rfl
@[simp] theorem answerRead_channels (d : ReadData) (s : State) :
    (answerRead d s).channels = s.channels := by unfold answerRead; rfl
@[simp] theorem answerRead_rxCap (d : ReadData) (s : State) :
    (answerRead d s).rxCap = s.rxCap := by unfold answerRead; rfl
@[simp] theorem answerRead_hostInputs (d : ReadData) (s : State) :
    (answerRead d s).hostInputs = s.hostInputs := by unfold answerRead; rfl
@[simp] theorem answerRead_hostPc (d : ReadData) (s : State) :
    (answerRead d s).hostPc = s.hostPc := by unfold answerRead; rfl
@[simp] theorem answerRead_hostRead (d : ReadData) (s : State) :
    (answerRead d s).hostRead = some d := by unfold answerRead; rfl

@[simp] theorem withChannels_status (f : Nat → Channel → Channel) (s : State) :
    (withChannels f s).status = s.status := by unfold withChannels; rfl
@[simp] theorem withChannels_errflags (f : Nat → Channel → Channel) (s : State) :
    (withChannels f s).errflags = s.errflags := by unfold withChannels; rfl
@[simp] theorem withChannels_cfgVolt (f : Nat → Channel → Channel) (s : State) :
    (withChannels f s).cfgVolt = s.cfgVolt := by unfold withChannels; rfl
@[simp] theorem withChannels_cfgFreq (f : Nat → Channel → Channel) (s : State) :
    (withChannels f s).cfgFreq = s.cfgFreq := by unfold withChannels; rfl
@[simp] theorem withChannels_cfgImp (f : Nat → Channel → Channel) (s : State) :
    (withChannels f s).cfgImp = s.cfgImp := by unfold withChannels; rfl
@[simp] theorem withChannels_cfgCh (f : Nat → Channel → Channel) (s : State) :
    (withChannels f s).cfgCh = s.cfgCh := by unfold withChannels; rfl
@[simp] theorem withChannels_cfgInt (f : Nat → Channel → Channel) (s : State) :
    (withChannels f s).cfgInt = s.cfgInt := by unfold withChannels; rfl
@[simp] theorem withChannels_cfgValid (f : Nat → Channel → Channel) (s : State) :
    (withChannels f s).cfgValid = s.cfgValid := by unfold withChannels; rfl
@[simp] theorem withChannels_ux (f : Nat → Channel → Channel) (s : State) :
    (withChannels f s).ux = s.ux := by unfold withChannels; rfl
@[simp] theorem withChannels_fx (f : Nat → Channel → Channel) (s : State) :
    (withChannels f s).fx = s.fx := by unfold withChannels; rfl
@[simp] theorem withChannels_encCh (f : Nat → Channel → Channel) (s : State) :
    (withChannels f s).encCh = s.encCh := by unfold withChannels; rfl
@[simp] theorem withChannels_cframe (f : Nat → Channel → Channel) (s : State) :
    (withChannels f s).cframe = s.cframe := by unfold withChannels; rfl
@[simp] theorem withChannels_ackLen (f : Nat → Channel → Channel) (s : State) :
    (withChannels f s).ackLen = s.ackLen := by unfold withChannels; rfl
@[simp] theorem withChannels_ackbuf (f : Nat → Channel → Channel) (s : State) :
    (withChannels f s).ackbuf = s.ackbuf := by unfold withChannels; rfl
@[simp] theorem withChannels_ackOk (f : Nat → Channel → Channel) (s : State) :
    (withChannels f s).ackOk = s.ackOk := by unfold withChannels; rfl
@[simp] theorem withChannels_run (f : Nat → Channel → Channel) (s : State) :
    (withChannels f s).run = s.run := by unfold withChannels; rfl
@[simp] theorem withChannels_boardId (f : Nat → Channel → Channel) (s : State) :
    (withChannels f s).boardId = s.boardId := by unfold withChannels; rfl
@[simp] theorem withChannels_actValid (f : Nat → Channel → Channel) (s : State) :
    (withChannels f s).actValid = s.actValid := by unfold withChannels; rfl
@[simp] theorem withChannels_actCh (f : Nat → Channel → Channel) (s : State) :
    (withChannels f s).actCh = s.actCh := by unfold withChannels; rfl
@[simp] theorem withChannels_rx (f : Nat → Channel → Channel) (s : State) :
    (withChannels f s).rx = s.rx := by unfold withChannels; rfl
@[simp] theorem withChannels_frameCount (f : Nat → Channel → Channel) (s : State) :
    (withChannels f s).frameCount = s.frameCount := by unfold withChannels; rfl
@[simp] theorem withChannels_rejectCount (f : Nat → Channel → Channel) (s : State) :
    (withChannels f s).rejectCount = s.rejectCount := by unfold withChannels; rfl
@[simp] theorem withChannels_ovfCount (f : Nat → Channel → Channel) (s : State) :
    (withChannels f s).ovfCount = s.ovfCount := by unfold withChannels; rfl
@[simp] theorem withChannels_frameValid (f : Nat → Channel → Channel) (s : State) :
    (withChannels f s).frameValid = s.frameValid := by unfold withChannels; rfl
@[simp] theorem withChannels_frameCh (f : Nat → Channel → Channel) (s : State) :
    (withChannels f s).frameCh = s.frameCh := by unfold withChannels; rfl
@[simp] theorem withChannels_measCount (f : Nat → Channel → Channel) (s : State) :
    (withChannels f s).measCount = s.measCount := by unfold withChannels; rfl
@[simp] theorem withChannels_recBatRaw (f : Nat → Channel → Channel) (s : State) :
    (withChannels f s).recBatRaw = s.recBatRaw := by unfold withChannels; rfl
@[simp] theorem withChannels_emBatRaw (f : Nat → Channel → Channel) (s : State) :
    (withChannels f s).emBatRaw = s.emBatRaw := by unfold withChannels; rfl
@[simp] theorem withChannels_iPRaw (f : Nat → Channel → Channel) (s : State) :
    (withChannels f s).iPRaw = s.iPRaw := by unfold withChannels; rfl
@[simp] theorem withChannels_iQRaw (f : Nat → Channel → Channel) (s : State) :
    (withChannels f s).iQRaw = s.iQRaw := by unfold withChannels; rfl
@[simp] theorem withChannels_recBatMv (f : Nat → Channel → Channel) (s : State) :
    (withChannels f s).recBatMv = s.recBatMv := by unfold withChannels; rfl
@[simp] theorem withChannels_emBatMv (f : Nat → Channel → Channel) (s : State) :
    (withChannels f s).emBatMv = s.emBatMv := by unfold withChannels; rfl
@[simp] theorem withChannels_iPMa (f : Nat → Channel → Channel) (s : State) :
    (withChannels f s).iPMa = s.iPMa := by unfold withChannels; rfl
@[simp] theorem withChannels_iQMa (f : Nat → Channel → Channel) (s : State) :
    (withChannels f s).iQMa = s.iQMa := by unfold withChannels; rfl
@[simp] theorem withChannels_iMag (f : Nat → Channel → Channel) (s : State) :
    (withChannels f s).iMag = s.iMag := by unfold withChannels; rfl
@[simp] theorem withChannels_cvtFlags (f : Nat → Channel → Channel) (s : State) :
    (withChannels f s).cvtFlags = s.cvtFlags := by unfold withChannels; rfl
@[simp] theorem withChannels_channels (f : Nat → Channel → Channel) (s : State) :
    (withChannels f s).channels = mapChannels f s.channels := by unfold withChannels; rfl
@[simp] theorem withChannels_rxCap (f : Nat → Channel → Channel) (s : State) :
    (withChannels f s).rxCap = s.rxCap := by unfold withChannels; rfl
@[simp] theorem withChannels_hostInputs (f : Nat → Channel → Channel) (s : State) :
    (withChannels f s).hostInputs = s.hostInputs := by unfold withChannels; rfl
@[simp] theorem withChannels_hostPc (f : Nat → Channel → Channel) (s : State) :
    (withChannels f s).hostPc = s.hostPc := by unfold withChannels; rfl
@[simp] theorem withChannels_hostRead (f : Nat → Channel → Channel) (s : State) :
    (withChannels f s).hostRead = s.hostRead := by unfold withChannels; rfl

@[simp] theorem rxAppend_status (b : Byte) (s : State) : (rxAppend b s).status = s.status := by unfold rxAppend; rfl
@[simp] theorem rxAppend_errflags (b : Byte) (s : State) :
    (rxAppend b s).errflags = s.errflags := by unfold rxAppend; rfl
@[simp] theorem rxAppend_cfgVolt (b : Byte) (s : State) :
    (rxAppend b s).cfgVolt = s.cfgVolt := by unfold rxAppend; rfl
@[simp] theorem rxAppend_cfgFreq (b : Byte) (s : State) :
    (rxAppend b s).cfgFreq = s.cfgFreq := by unfold rxAppend; rfl
@[simp] theorem rxAppend_cfgImp (b : Byte) (s : State) : (rxAppend b s).cfgImp = s.cfgImp := by unfold rxAppend; rfl
@[simp] theorem rxAppend_cfgCh (b : Byte) (s : State) : (rxAppend b s).cfgCh = s.cfgCh := by unfold rxAppend; rfl
@[simp] theorem rxAppend_cfgInt (b : Byte) (s : State) : (rxAppend b s).cfgInt = s.cfgInt := by unfold rxAppend; rfl
@[simp] theorem rxAppend_cfgValid (b : Byte) (s : State) :
    (rxAppend b s).cfgValid = s.cfgValid := by unfold rxAppend; rfl
@[simp] theorem rxAppend_ux (b : Byte) (s : State) : (rxAppend b s).ux = s.ux := by unfold rxAppend; rfl
@[simp] theorem rxAppend_fx (b : Byte) (s : State) : (rxAppend b s).fx = s.fx := by unfold rxAppend; rfl
@[simp] theorem rxAppend_encCh (b : Byte) (s : State) : (rxAppend b s).encCh = s.encCh := by unfold rxAppend; rfl
@[simp] theorem rxAppend_cframe (b : Byte) (s : State) : (rxAppend b s).cframe = s.cframe := by unfold rxAppend; rfl
@[simp] theorem rxAppend_ackLen (b : Byte) (s : State) : (rxAppend b s).ackLen = s.ackLen := by unfold rxAppend; rfl
@[simp] theorem rxAppend_ackbuf (b : Byte) (s : State) : (rxAppend b s).ackbuf = s.ackbuf := by unfold rxAppend; rfl
@[simp] theorem rxAppend_ackOk (b : Byte) (s : State) : (rxAppend b s).ackOk = s.ackOk := by unfold rxAppend; rfl
@[simp] theorem rxAppend_run (b : Byte) (s : State) : (rxAppend b s).run = s.run := by unfold rxAppend; rfl
@[simp] theorem rxAppend_boardId (b : Byte) (s : State) :
    (rxAppend b s).boardId = s.boardId := by unfold rxAppend; rfl
@[simp] theorem rxAppend_actValid (b : Byte) (s : State) :
    (rxAppend b s).actValid = s.actValid := by unfold rxAppend; rfl
@[simp] theorem rxAppend_actCh (b : Byte) (s : State) : (rxAppend b s).actCh = s.actCh := by unfold rxAppend; rfl
@[simp] theorem rxAppend_rx (b : Byte) (s : State) : (rxAppend b s).rx = s.rx ++ [b] := by unfold rxAppend; rfl
@[simp] theorem rxAppend_frameCount (b : Byte) (s : State) :
    (rxAppend b s).frameCount = s.frameCount := by unfold rxAppend; rfl
@[simp] theorem rxAppend_rejectCount (b : Byte) (s : State) :
    (rxAppend b s).rejectCount = s.rejectCount := by unfold rxAppend; rfl
@[simp] theorem rxAppend_ovfCount (b : Byte) (s : State) :
    (rxAppend b s).ovfCount = s.ovfCount := by unfold rxAppend; rfl
@[simp] theorem rxAppend_frameValid (b : Byte) (s : State) :
    (rxAppend b s).frameValid = s.frameValid := by unfold rxAppend; rfl
@[simp] theorem rxAppend_frameCh (b : Byte) (s : State) :
    (rxAppend b s).frameCh = s.frameCh := by unfold rxAppend; rfl
@[simp] theorem rxAppend_measCount (b : Byte) (s : State) :
    (rxAppend b s).measCount = s.measCount := by unfold rxAppend; rfl
@[simp] theorem rxAppend_recBatRaw (b : Byte) (s : State) :
    (rxAppend b s).recBatRaw = s.recBatRaw := by unfold rxAppend; rfl
@[simp] theorem rxAppend_emBatRaw (b : Byte) (s : State) :
    (rxAppend b s).emBatRaw = s.emBatRaw := by unfold rxAppend; rfl
@[simp] theorem rxAppend_iPRaw (b : Byte) (s : State) : (rxAppend b s).iPRaw = s.iPRaw := by unfold rxAppend; rfl
@[simp] theorem rxAppend_iQRaw (b : Byte) (s : State) : (rxAppend b s).iQRaw = s.iQRaw := by unfold rxAppend; rfl
@[simp] theorem rxAppend_recBatMv (b : Byte) (s : State) :
    (rxAppend b s).recBatMv = s.recBatMv := by unfold rxAppend; rfl
@[simp] theorem rxAppend_emBatMv (b : Byte) (s : State) :
    (rxAppend b s).emBatMv = s.emBatMv := by unfold rxAppend; rfl
@[simp] theorem rxAppend_iPMa (b : Byte) (s : State) : (rxAppend b s).iPMa = s.iPMa := by unfold rxAppend; rfl
@[simp] theorem rxAppend_iQMa (b : Byte) (s : State) : (rxAppend b s).iQMa = s.iQMa := by unfold rxAppend; rfl
@[simp] theorem rxAppend_iMag (b : Byte) (s : State) : (rxAppend b s).iMag = s.iMag := by unfold rxAppend; rfl
@[simp] theorem rxAppend_cvtFlags (b : Byte) (s : State) :
    (rxAppend b s).cvtFlags = s.cvtFlags := by unfold rxAppend; rfl
@[simp] theorem rxAppend_channels (b : Byte) (s : State) :
    (rxAppend b s).channels = s.channels := by unfold rxAppend; rfl
@[simp] theorem rxAppend_rxCap (b : Byte) (s : State) : (rxAppend b s).rxCap = s.rxCap := by unfold rxAppend; rfl
@[simp] theorem rxAppend_hostInputs (b : Byte) (s : State) :
    (rxAppend b s).hostInputs = s.hostInputs := by unfold rxAppend; rfl
@[simp] theorem rxAppend_hostPc (b : Byte) (s : State) : (rxAppend b s).hostPc = s.hostPc := by unfold rxAppend; rfl
@[simp] theorem rxAppend_hostRead (b : Byte) (s : State) :
    (rxAppend b s).hostRead = s.hostRead := by unfold rxAppend; rfl

@[simp] theorem rxClear_status (s : State) : (rxClear s).status = s.status := by unfold rxClear; rfl
@[simp] theorem rxClear_errflags (s : State) : (rxClear s).errflags = s.errflags := by unfold rxClear; rfl
@[simp] theorem rxClear_cfgVolt (s : State) : (rxClear s).cfgVolt = s.cfgVolt := by unfold rxClear; rfl
@[simp] theorem rxClear_cfgFreq (s : State) : (rxClear s).cfgFreq = s.cfgFreq := by unfold rxClear; rfl
@[simp] theorem rxClear_cfgImp (s : State) : (rxClear s).cfgImp = s.cfgImp := by unfold rxClear; rfl
@[simp] theorem rxClear_cfgCh (s : State) : (rxClear s).cfgCh = s.cfgCh := by unfold rxClear; rfl
@[simp] theorem rxClear_cfgInt (s : State) : (rxClear s).cfgInt = s.cfgInt := by unfold rxClear; rfl
@[simp] theorem rxClear_cfgValid (s : State) : (rxClear s).cfgValid = s.cfgValid := by unfold rxClear; rfl
@[simp] theorem rxClear_ux (s : State) : (rxClear s).ux = s.ux := by unfold rxClear; rfl
@[simp] theorem rxClear_fx (s : State) : (rxClear s).fx = s.fx := by unfold rxClear; rfl
@[simp] theorem rxClear_encCh (s : State) : (rxClear s).encCh = s.encCh := by unfold rxClear; rfl
@[simp] theorem rxClear_cframe (s : State) : (rxClear s).cframe = s.cframe := by unfold rxClear; rfl
@[simp] theorem rxClear_ackLen (s : State) : (rxClear s).ackLen = s.ackLen := by unfold rxClear; rfl
@[simp] theorem rxClear_ackbuf (s : State) : (rxClear s).ackbuf = s.ackbuf := by unfold rxClear; rfl
@[simp] theorem rxClear_ackOk (s : State) : (rxClear s).ackOk = s.ackOk := by unfold rxClear; rfl
@[simp] theorem rxClear_run (s : State) : (rxClear s).run = s.run := by unfold rxClear; rfl
@[simp] theorem rxClear_boardId (s : State) : (rxClear s).boardId = s.boardId := by unfold rxClear; rfl
@[simp] theorem rxClear_actValid (s : State) : (rxClear s).actValid = s.actValid := by unfold rxClear; rfl
@[simp] theorem rxClear_actCh (s : State) : (rxClear s).actCh = s.actCh := by unfold rxClear; rfl
@[simp] theorem rxClear_rx (s : State) : (rxClear s).rx = [] := by unfold rxClear; rfl
@[simp] theorem rxClear_frameCount (s : State) : (rxClear s).frameCount = s.frameCount := by unfold rxClear; rfl
@[simp] theorem rxClear_rejectCount (s : State) : (rxClear s).rejectCount = s.rejectCount := by unfold rxClear; rfl
@[simp] theorem rxClear_ovfCount (s : State) : (rxClear s).ovfCount = s.ovfCount := by unfold rxClear; rfl
@[simp] theorem rxClear_frameValid (s : State) : (rxClear s).frameValid = s.frameValid := by unfold rxClear; rfl
@[simp] theorem rxClear_frameCh (s : State) : (rxClear s).frameCh = s.frameCh := by unfold rxClear; rfl
@[simp] theorem rxClear_measCount (s : State) : (rxClear s).measCount = s.measCount := by unfold rxClear; rfl
@[simp] theorem rxClear_recBatRaw (s : State) : (rxClear s).recBatRaw = s.recBatRaw := by unfold rxClear; rfl
@[simp] theorem rxClear_emBatRaw (s : State) : (rxClear s).emBatRaw = s.emBatRaw := by unfold rxClear; rfl
@[simp] theorem rxClear_iPRaw (s : State) : (rxClear s).iPRaw = s.iPRaw := by unfold rxClear; rfl
@[simp] theorem rxClear_iQRaw (s : State) : (rxClear s).iQRaw = s.iQRaw := by unfold rxClear; rfl
@[simp] theorem rxClear_recBatMv (s : State) : (rxClear s).recBatMv = s.recBatMv := by unfold rxClear; rfl
@[simp] theorem rxClear_emBatMv (s : State) : (rxClear s).emBatMv = s.emBatMv := by unfold rxClear; rfl
@[simp] theorem rxClear_iPMa (s : State) : (rxClear s).iPMa = s.iPMa := by unfold rxClear; rfl
@[simp] theorem rxClear_iQMa (s : State) : (rxClear s).iQMa = s.iQMa := by unfold rxClear; rfl
@[simp] theorem rxClear_iMag (s : State) : (rxClear s).iMag = s.iMag := by unfold rxClear; rfl
@[simp] theorem rxClear_cvtFlags (s : State) : (rxClear s).cvtFlags = s.cvtFlags := by unfold rxClear; rfl
@[simp] theorem rxClear_channels (s : State) : (rxClear s).channels = s.channels := by unfold rxClear; rfl
@[simp] theorem rxClear_rxCap (s : State) : (rxClear s).rxCap = s.rxCap := by unfold rxClear; rfl
@[simp] theorem rxClear_hostInputs (s : State) : (rxClear s).hostInputs = s.hostInputs := by unfold rxClear; rfl
@[simp] theorem rxClear_hostPc (s : State) : (rxClear s).hostPc = s.hostPc := by unfold rxClear; rfl
@[simp] theorem rxClear_hostRead (s : State) : (rxClear s).hostRead = s.hostRead := by unfold rxClear; rfl

@[simp] theorem rxDropFront_status (n : Nat) (s : State) :
    (rxDropFront n s).status = s.status := by unfold rxDropFront; rfl
@[simp] theorem rxDropFront_errflags (n : Nat) (s : State) :
    (rxDropFront n s).errflags = s.errflags := by unfold rxDropFront; rfl
@[simp] theorem rxDropFront_cfgVolt (n : Nat) (s : State) :
    (rxDropFront n s).cfgVolt = s.cfgVolt := by unfold rxDropFront; rfl
@[simp] theorem rxDropFront_cfgFreq (n : Nat) (s : State) :
    (rxDropFront n s).cfgFreq = s.cfgFreq := by unfold rxDropFront; rfl
@[simp] theorem rxDropFront_cfgImp (n : Nat) (s : State) :
    (rxDropFront n s).cfgImp = s.cfgImp := by unfold rxDropFront; rfl
@[simp] theorem rxDropFront_cfgCh (n : Nat) (s : State) :
    (rxDropFront n s).cfgCh = s.cfgCh := by unfold rxDropFront; rfl
@[simp] theorem rxDropFront_cfgInt (n : Nat) (s : State) :
    (rxDropFront n s).cfgInt = s.cfgInt := by unfold rxDropFront; rfl
@[simp] theorem rxDropFront_cfgValid (n : Nat) (s : State) :
    (rxDropFront n s).cfgValid = s.cfgValid := by unfold rxDropFront; rfl
@[simp] theorem rxDropFront_ux (n : Nat) (s : State) : (rxDropFront n s).ux = s.ux := by unfold rxDropFront; rfl
@[simp] theorem rxDropFront_fx (n : Nat) (s : State) : (rxDropFront n s).fx = s.fx := by unfold rxDropFront; rfl
@[simp] theorem rxDropFront_encCh (n : Nat) (s : State) :
    (rxDropFront n s).encCh = s.encCh := by unfold rxDropFront; rfl
@[simp] theorem rxDropFront_cframe (n : Nat) (s : State) :
    (rxDropFront n s).cframe = s.cframe := by unfold rxDropFront; rfl
@[simp] theorem rxDropFront_ackLen (n : Nat) (s : State) :
    (rxDropFront n s).ackLen = s.ackLen := by unfold rxDropFront; rfl
@[simp] theorem rxDropFront_ackbuf (n : Nat) (s : State) :
    (rxDropFront n s).ackbuf = s.ackbuf := by unfold rxDropFront; rfl
@[simp] theorem rxDropFront_ackOk (n : Nat) (s : State) :
    (rxDropFront n s).ackOk = s.ackOk := by unfold rxDropFront; rfl
@[simp] theorem rxDropFront_run (n : Nat) (s : State) : (rxDropFront n s).run = s.run := by unfold rxDropFront; rfl
@[simp] theorem rxDropFront_boardId (n : Nat) (s : State) :
    (rxDropFront n s).boardId = s.boardId := by unfold rxDropFront; rfl
@[simp] theorem rxDropFront_actValid (n : Nat) (s : State) :
    (rxDropFront n s).actValid = s.actValid := by unfold rxDropFront; rfl
@[simp] theorem rxDropFront_actCh (n : Nat) (s : State) :
    (rxDropFront n s).actCh = s.actCh := by unfold rxDropFront; rfl
@[simp] theorem rxDropFront_frameCount (n : Nat) (s : State) :
    (rxDropFront n s).frameCount = s.frameCount := by unfold rxDropFront; rfl
@[simp] theorem rxDropFront_rejectCount (n : Nat) (s : State) :
    (rxDropFront n s).rejectCount = s.rejectCount := by unfold rxDropFront; rfl
@[simp] theorem rxDropFront_ovfCount (n : Nat) (s : State) :
    (rxDropFront n s).ovfCount = s.ovfCount := by unfold rxDropFront; rfl
@[simp] theorem rxDropFront_frameValid (n : Nat) (s : State) :
    (rxDropFront n s).frameValid = s.frameValid := by unfold rxDropFront; rfl
@[simp] theorem rxDropFront_frameCh (n : Nat) (s : State) :
    (rxDropFront n s).frameCh = s.frameCh := by unfold rxDropFront; rfl
@[simp] theorem rxDropFront_measCount (n : Nat) (s : State) :
    (rxDropFront n s).measCount = s.measCount := by unfold rxDropFront; rfl
@[simp] theorem rxDropFront_recBatRaw (n : Nat) (s : State) :
    (rxDropFront n s).recBatRaw = s.recBatRaw := by unfold rxDropFront; rfl
@[simp] theorem rxDropFront_emBatRaw (n : Nat) (s : State) :
    (rxDropFront n s).emBatRaw = s.emBatRaw := by unfold rxDropFront; rfl
@[simp] theorem rxDropFront_iPRaw (n : Nat) (s : State) :
    (rxDropFront n s).iPRaw = s.iPRaw := by unfold rxDropFront; rfl
@[simp] theorem rxDropFront_iQRaw (n : Nat) (s : State) :
    (rxDropFront n s).iQRaw = s.iQRaw := by unfold rxDropFront; rfl
@[simp] theorem rxDropFront_recBatMv (n : Nat) (s : State) :
    (rxDropFront n s).recBatMv = s.recBatMv := by unfold rxDropFront; rfl
@[simp] theorem rxDropFront_emBatMv (n : Nat) (s : State) :
    (rxDropFront n s).emBatMv = s.emBatMv := by unfold rxDropFront; rfl
@[simp] theorem rxDropFront_iPMa (n : Nat) (s : State) : (rxDropFront n s).iPMa = s.iPMa := by unfold rxDropFront; rfl
@[simp] theorem rxDropFront_iQMa (n : Nat) (s : State) : (rxDropFront n s).iQMa = s.iQMa := by unfold rxDropFront; rfl
@[simp] theorem rxDropFront_iMag (n : Nat) (s : State) : (rxDropFront n s).iMag = s.iMag := by unfold rxDropFront; rfl
@[simp] theorem rxDropFront_cvtFlags (n : Nat) (s : State) :
    (rxDropFront n s).cvtFlags = s.cvtFlags := by unfold rxDropFront; rfl
@[simp] theorem rxDropFront_channels (n : Nat) (s : State) :
    (rxDropFront n s).channels = s.channels := by unfold rxDropFront; rfl
@[simp] theorem rxDropFront_rxCap (n : Nat) (s : State) :
    (rxDropFront n s).rxCap = s.rxCap := by unfold rxDropFront; rfl
@[simp] theorem rxDropFront_hostInputs (n : Nat) (s : State) :
    (rxDropFront n s).hostInputs = s.hostInputs := by unfold rxDropFront; rfl
@[simp] theorem rxDropFront_hostPc (n : Nat) (s : State) :
    (rxDropFront n s).hostPc = s.hostPc := by unfold rxDropFront; rfl
@[simp] theorem rxDropFront_hostRead (n : Nat) (s : State) :
    (rxDropFront n s).hostRead = s.hostRead := by unfold rxDropFront; rfl

@[simp] theorem ackAppend_status (b : Byte) (s : State) :
    (ackAppend b s).status = s.status := by unfold ackAppend; rfl
@[simp] theorem ackAppend_errflags (b : Byte) (s : State) :
    (ackAppend b s).errflags = s.errflags := by unfold ackAppend; rfl
@[simp] theorem ackAppend_cfgVolt (b : Byte) (s : State) :
    (ackAppend b s).cfgVolt = s.cfgVolt := by unfold ackAppend; rfl
@[simp] theorem ackAppend_cfgFreq (b : Byte) (s : State) :
    (ackAppend b s).cfgFreq = s.cfgFreq := by unfold ackAppend; rfl
@[simp] theorem ackAppend_cfgImp (b : Byte) (s : State) :
    (ackAppend b s).cfgImp = s.cfgImp := by unfold ackAppend; rfl
@[simp] theorem ackAppend_cfgCh (b : Byte) (s : State) : (ackAppend b s).cfgCh = s.cfgCh := by unfold ackAppend; rfl
@[simp] theorem ackAppend_cfgInt (b : Byte) (s : State) :
    (ackAppend b s).cfgInt = s.cfgInt := by unfold ackAppend; rfl
@[simp] theorem ackAppend_cfgValid (b : Byte) (s : State) :
    (ackAppend b s).cfgValid = s.cfgValid := by unfold ackAppend; rfl
@[simp] theorem ackAppend_ux (b : Byte) (s : State) : (ackAppend b s).ux = s.ux := by unfold ackAppend; rfl
@[simp] theorem ackAppend_fx (b : Byte) (s : State) : (ackAppend b s).fx = s.fx := by unfold ackAppend; rfl
@[simp] theorem ackAppend_encCh (b : Byte) (s : State) : (ackAppend b s).encCh = s.encCh := by unfold ackAppend; rfl
@[simp] theorem ackAppend_cframe (b : Byte) (s : State) :
    (ackAppend b s).cframe = s.cframe := by unfold ackAppend; rfl
@[simp] theorem ackAppend_ackLen (b : Byte) (s : State) :
    (ackAppend b s).ackLen = BitVec.ofNat 8 (min (s.ackLen.toNat + 1) 255) := by unfold ackAppend; rfl
@[simp] theorem ackAppend_ackbuf (b : Byte) (s : State) :
    (ackAppend b s).ackbuf = ackStore s.ackbuf s.ackLen.toNat b := by unfold ackAppend; rfl
@[simp] theorem ackAppend_ackOk (b : Byte) (s : State) : (ackAppend b s).ackOk = s.ackOk := by unfold ackAppend; rfl
@[simp] theorem ackAppend_run (b : Byte) (s : State) : (ackAppend b s).run = s.run := by unfold ackAppend; rfl
@[simp] theorem ackAppend_boardId (b : Byte) (s : State) :
    (ackAppend b s).boardId = s.boardId := by unfold ackAppend; rfl
@[simp] theorem ackAppend_actValid (b : Byte) (s : State) :
    (ackAppend b s).actValid = s.actValid := by unfold ackAppend; rfl
@[simp] theorem ackAppend_actCh (b : Byte) (s : State) : (ackAppend b s).actCh = s.actCh := by unfold ackAppend; rfl
@[simp] theorem ackAppend_rx (b : Byte) (s : State) : (ackAppend b s).rx = s.rx := by unfold ackAppend; rfl
@[simp] theorem ackAppend_frameCount (b : Byte) (s : State) :
    (ackAppend b s).frameCount = s.frameCount := by unfold ackAppend; rfl
@[simp] theorem ackAppend_rejectCount (b : Byte) (s : State) :
    (ackAppend b s).rejectCount = s.rejectCount := by unfold ackAppend; rfl
@[simp] theorem ackAppend_ovfCount (b : Byte) (s : State) :
    (ackAppend b s).ovfCount = s.ovfCount := by unfold ackAppend; rfl
@[simp] theorem ackAppend_frameValid (b : Byte) (s : State) :
    (ackAppend b s).frameValid = s.frameValid := by unfold ackAppend; rfl
@[simp] theorem ackAppend_frameCh (b : Byte) (s : State) :
    (ackAppend b s).frameCh = s.frameCh := by unfold ackAppend; rfl
@[simp] theorem ackAppend_measCount (b : Byte) (s : State) :
    (ackAppend b s).measCount = s.measCount := by unfold ackAppend; rfl
@[simp] theorem ackAppend_recBatRaw (b : Byte) (s : State) :
    (ackAppend b s).recBatRaw = s.recBatRaw := by unfold ackAppend; rfl
@[simp] theorem ackAppend_emBatRaw (b : Byte) (s : State) :
    (ackAppend b s).emBatRaw = s.emBatRaw := by unfold ackAppend; rfl
@[simp] theorem ackAppend_iPRaw (b : Byte) (s : State) : (ackAppend b s).iPRaw = s.iPRaw := by unfold ackAppend; rfl
@[simp] theorem ackAppend_iQRaw (b : Byte) (s : State) : (ackAppend b s).iQRaw = s.iQRaw := by unfold ackAppend; rfl
@[simp] theorem ackAppend_recBatMv (b : Byte) (s : State) :
    (ackAppend b s).recBatMv = s.recBatMv := by unfold ackAppend; rfl
@[simp] theorem ackAppend_emBatMv (b : Byte) (s : State) :
    (ackAppend b s).emBatMv = s.emBatMv := by unfold ackAppend; rfl
@[simp] theorem ackAppend_iPMa (b : Byte) (s : State) : (ackAppend b s).iPMa = s.iPMa := by unfold ackAppend; rfl
@[simp] theorem ackAppend_iQMa (b : Byte) (s : State) : (ackAppend b s).iQMa = s.iQMa := by unfold ackAppend; rfl
@[simp] theorem ackAppend_iMag (b : Byte) (s : State) : (ackAppend b s).iMag = s.iMag := by unfold ackAppend; rfl
@[simp] theorem ackAppend_cvtFlags (b : Byte) (s : State) :
    (ackAppend b s).cvtFlags = s.cvtFlags := by unfold ackAppend; rfl
@[simp] theorem ackAppend_channels (b : Byte) (s : State) :
    (ackAppend b s).channels = s.channels := by unfold ackAppend; rfl
@[simp] theorem ackAppend_rxCap (b : Byte) (s : State) : (ackAppend b s).rxCap = s.rxCap := by unfold ackAppend; rfl
@[simp] theorem ackAppend_hostInputs (b : Byte) (s : State) :
    (ackAppend b s).hostInputs = s.hostInputs := by unfold ackAppend; rfl
@[simp] theorem ackAppend_hostPc (b : Byte) (s : State) :
    (ackAppend b s).hostPc = s.hostPc := by unfold ackAppend; rfl
@[simp] theorem ackAppend_hostRead (b : Byte) (s : State) :
    (ackAppend b s).hostRead = s.hostRead := by unfold ackAppend; rfl

@[simp] theorem ackClear_status (s : State) : (ackClear s).status = s.status := by unfold ackClear; rfl
@[simp] theorem ackClear_errflags (s : State) : (ackClear s).errflags = s.errflags := by unfold ackClear; rfl
@[simp] theorem ackClear_cfgVolt (s : State) : (ackClear s).cfgVolt = s.cfgVolt := by unfold ackClear; rfl
@[simp] theorem ackClear_cfgFreq (s : State) : (ackClear s).cfgFreq = s.cfgFreq := by unfold ackClear; rfl
@[simp] theorem ackClear_cfgImp (s : State) : (ackClear s).cfgImp = s.cfgImp := by unfold ackClear; rfl
@[simp] theorem ackClear_cfgCh (s : State) : (ackClear s).cfgCh = s.cfgCh := by unfold ackClear; rfl
@[simp] theorem ackClear_cfgInt (s : State) : (ackClear s).cfgInt = s.cfgInt := by unfold ackClear; rfl
@[simp] theorem ackClear_cfgValid (s : State) : (ackClear s).cfgValid = s.cfgValid := by unfold ackClear; rfl
@[simp] theorem ackClear_ux (s : State) : (ackClear s).ux = s.ux := by unfold ackClear; rfl
@[simp] theorem ackClear_fx (s : State) : (ackClear s).fx = s.fx := by unfold ackClear; rfl
@[simp] theorem ackClear_encCh (s : State) : (ackClear s).encCh = s.encCh := by unfold ackClear; rfl
@[simp] theorem ackClear_cframe (s : State) : (ackClear s).cframe = s.cframe := by unfold ackClear; rfl
@[simp] theorem ackClear_ackLen (s : State) : (ackClear s).ackLen = 0#8 := by unfold ackClear; rfl
@[simp] theorem ackClear_ackbuf (s : State) : (ackClear s).ackbuf = Vector.replicate 11 0#8 := by unfold ackClear; rfl
@[simp] theorem ackClear_ackOk (s : State) : (ackClear s).ackOk = s.ackOk := by unfold ackClear; rfl
@[simp] theorem ackClear_run (s : State) : (ackClear s).run = s.run := by unfold ackClear; rfl
@[simp] theorem ackClear_boardId (s : State) : (ackClear s).boardId = s.boardId := by unfold ackClear; rfl
@[simp] theorem ackClear_actValid (s : State) : (ackClear s).actValid = s.actValid := by unfold ackClear; rfl
@[simp] theorem ackClear_actCh (s : State) : (ackClear s).actCh = s.actCh := by unfold ackClear; rfl
@[simp] theorem ackClear_rx (s : State) : (ackClear s).rx = s.rx := by unfold ackClear; rfl
@[simp] theorem ackClear_frameCount (s : State) : (ackClear s).frameCount = s.frameCount := by unfold ackClear; rfl
@[simp] theorem ackClear_rejectCount (s : State) : (ackClear s).rejectCount = s.rejectCount := by unfold ackClear; rfl
@[simp] theorem ackClear_ovfCount (s : State) : (ackClear s).ovfCount = s.ovfCount := by unfold ackClear; rfl
@[simp] theorem ackClear_frameValid (s : State) : (ackClear s).frameValid = s.frameValid := by unfold ackClear; rfl
@[simp] theorem ackClear_frameCh (s : State) : (ackClear s).frameCh = s.frameCh := by unfold ackClear; rfl
@[simp] theorem ackClear_measCount (s : State) : (ackClear s).measCount = s.measCount := by unfold ackClear; rfl
@[simp] theorem ackClear_recBatRaw (s : State) : (ackClear s).recBatRaw = s.recBatRaw := by unfold ackClear; rfl
@[simp] theorem ackClear_emBatRaw (s : State) : (ackClear s).emBatRaw = s.emBatRaw := by unfold ackClear; rfl
@[simp] theorem ackClear_iPRaw (s : State) : (ackClear s).iPRaw = s.iPRaw := by unfold ackClear; rfl
@[simp] theorem ackClear_iQRaw (s : State) : (ackClear s).iQRaw = s.iQRaw := by unfold ackClear; rfl
@[simp] theorem ackClear_recBatMv (s : State) : (ackClear s).recBatMv = s.recBatMv := by unfold ackClear; rfl
@[simp] theorem ackClear_emBatMv (s : State) : (ackClear s).emBatMv = s.emBatMv := by unfold ackClear; rfl
@[simp] theorem ackClear_iPMa (s : State) : (ackClear s).iPMa = s.iPMa := by unfold ackClear; rfl
@[simp] theorem ackClear_iQMa (s : State) : (ackClear s).iQMa = s.iQMa := by unfold ackClear; rfl
@[simp] theorem ackClear_iMag (s : State) : (ackClear s).iMag = s.iMag := by unfold ackClear; rfl
@[simp] theorem ackClear_cvtFlags (s : State) : (ackClear s).cvtFlags = s.cvtFlags := by unfold ackClear; rfl
@[simp] theorem ackClear_channels (s : State) : (ackClear s).channels = s.channels := by unfold ackClear; rfl
@[simp] theorem ackClear_rxCap (s : State) : (ackClear s).rxCap = s.rxCap := by unfold ackClear; rfl
@[simp] theorem ackClear_hostInputs (s : State) : (ackClear s).hostInputs = s.hostInputs := by unfold ackClear; rfl
@[simp] theorem ackClear_hostPc (s : State) : (ackClear s).hostPc = s.hostPc := by unfold ackClear; rfl
@[simp] theorem ackClear_hostRead (s : State) : (ackClear s).hostRead = s.hostRead := by unfold ackClear; rfl

@[simp] theorem updateChannel_status (k : Nat) (f : Channel → Channel) (s : State) :
    (updateChannel k f s).status = s.status := by unfold updateChannel; rfl
@[simp] theorem updateChannel_errflags (k : Nat) (f : Channel → Channel) (s : State) :
    (updateChannel k f s).errflags = s.errflags := by unfold updateChannel; rfl
@[simp] theorem updateChannel_cfgVolt (k : Nat) (f : Channel → Channel) (s : State) :
    (updateChannel k f s).cfgVolt = s.cfgVolt := by unfold updateChannel; rfl
@[simp] theorem updateChannel_cfgFreq (k : Nat) (f : Channel → Channel) (s : State) :
    (updateChannel k f s).cfgFreq = s.cfgFreq := by unfold updateChannel; rfl
@[simp] theorem updateChannel_cfgImp (k : Nat) (f : Channel → Channel) (s : State) :
    (updateChannel k f s).cfgImp = s.cfgImp := by unfold updateChannel; rfl
@[simp] theorem updateChannel_cfgCh (k : Nat) (f : Channel → Channel) (s : State) :
    (updateChannel k f s).cfgCh = s.cfgCh := by unfold updateChannel; rfl
@[simp] theorem updateChannel_cfgInt (k : Nat) (f : Channel → Channel) (s : State) :
    (updateChannel k f s).cfgInt = s.cfgInt := by unfold updateChannel; rfl
@[simp] theorem updateChannel_cfgValid (k : Nat) (f : Channel → Channel) (s : State) :
    (updateChannel k f s).cfgValid = s.cfgValid := by unfold updateChannel; rfl
@[simp] theorem updateChannel_ux (k : Nat) (f : Channel → Channel) (s : State) :
    (updateChannel k f s).ux = s.ux := by unfold updateChannel; rfl
@[simp] theorem updateChannel_fx (k : Nat) (f : Channel → Channel) (s : State) :
    (updateChannel k f s).fx = s.fx := by unfold updateChannel; rfl
@[simp] theorem updateChannel_encCh (k : Nat) (f : Channel → Channel) (s : State) :
    (updateChannel k f s).encCh = s.encCh := by unfold updateChannel; rfl
@[simp] theorem updateChannel_cframe (k : Nat) (f : Channel → Channel) (s : State) :
    (updateChannel k f s).cframe = s.cframe := by unfold updateChannel; rfl
@[simp] theorem updateChannel_ackLen (k : Nat) (f : Channel → Channel) (s : State) :
    (updateChannel k f s).ackLen = s.ackLen := by unfold updateChannel; rfl
@[simp] theorem updateChannel_ackbuf (k : Nat) (f : Channel → Channel) (s : State) :
    (updateChannel k f s).ackbuf = s.ackbuf := by unfold updateChannel; rfl
@[simp] theorem updateChannel_ackOk (k : Nat) (f : Channel → Channel) (s : State) :
    (updateChannel k f s).ackOk = s.ackOk := by unfold updateChannel; rfl
@[simp] theorem updateChannel_run (k : Nat) (f : Channel → Channel) (s : State) :
    (updateChannel k f s).run = s.run := by unfold updateChannel; rfl
@[simp] theorem updateChannel_boardId (k : Nat) (f : Channel → Channel) (s : State) :
    (updateChannel k f s).boardId = s.boardId := by unfold updateChannel; rfl
@[simp] theorem updateChannel_actValid (k : Nat) (f : Channel → Channel) (s : State) :
    (updateChannel k f s).actValid = s.actValid := by unfold updateChannel; rfl
@[simp] theorem updateChannel_actCh (k : Nat) (f : Channel → Channel) (s : State) :
    (updateChannel k f s).actCh = s.actCh := by unfold updateChannel; rfl
@[simp] theorem updateChannel_rx (k : Nat) (f : Channel → Channel) (s : State) :
    (updateChannel k f s).rx = s.rx := by unfold updateChannel; rfl
@[simp] theorem updateChannel_frameCount (k : Nat) (f : Channel → Channel) (s : State) :
    (updateChannel k f s).frameCount = s.frameCount := by unfold updateChannel; rfl
@[simp] theorem updateChannel_rejectCount (k : Nat) (f : Channel → Channel) (s : State) :
    (updateChannel k f s).rejectCount = s.rejectCount := by unfold updateChannel; rfl
@[simp] theorem updateChannel_ovfCount (k : Nat) (f : Channel → Channel) (s : State) :
    (updateChannel k f s).ovfCount = s.ovfCount := by unfold updateChannel; rfl
@[simp] theorem updateChannel_frameValid (k : Nat) (f : Channel → Channel) (s : State) :
    (updateChannel k f s).frameValid = s.frameValid := by unfold updateChannel; rfl
@[simp] theorem updateChannel_frameCh (k : Nat) (f : Channel → Channel) (s : State) :
    (updateChannel k f s).frameCh = s.frameCh := by unfold updateChannel; rfl
@[simp] theorem updateChannel_measCount (k : Nat) (f : Channel → Channel) (s : State) :
    (updateChannel k f s).measCount = s.measCount := by unfold updateChannel; rfl
@[simp] theorem updateChannel_recBatRaw (k : Nat) (f : Channel → Channel) (s : State) :
    (updateChannel k f s).recBatRaw = s.recBatRaw := by unfold updateChannel; rfl
@[simp] theorem updateChannel_emBatRaw (k : Nat) (f : Channel → Channel) (s : State) :
    (updateChannel k f s).emBatRaw = s.emBatRaw := by unfold updateChannel; rfl
@[simp] theorem updateChannel_iPRaw (k : Nat) (f : Channel → Channel) (s : State) :
    (updateChannel k f s).iPRaw = s.iPRaw := by unfold updateChannel; rfl
@[simp] theorem updateChannel_iQRaw (k : Nat) (f : Channel → Channel) (s : State) :
    (updateChannel k f s).iQRaw = s.iQRaw := by unfold updateChannel; rfl
@[simp] theorem updateChannel_recBatMv (k : Nat) (f : Channel → Channel) (s : State) :
    (updateChannel k f s).recBatMv = s.recBatMv := by unfold updateChannel; rfl
@[simp] theorem updateChannel_emBatMv (k : Nat) (f : Channel → Channel) (s : State) :
    (updateChannel k f s).emBatMv = s.emBatMv := by unfold updateChannel; rfl
@[simp] theorem updateChannel_iPMa (k : Nat) (f : Channel → Channel) (s : State) :
    (updateChannel k f s).iPMa = s.iPMa := by unfold updateChannel; rfl
@[simp] theorem updateChannel_iQMa (k : Nat) (f : Channel → Channel) (s : State) :
    (updateChannel k f s).iQMa = s.iQMa := by unfold updateChannel; rfl
@[simp] theorem updateChannel_iMag (k : Nat) (f : Channel → Channel) (s : State) :
    (updateChannel k f s).iMag = s.iMag := by unfold updateChannel; rfl
@[simp] theorem updateChannel_cvtFlags (k : Nat) (f : Channel → Channel) (s : State) :
    (updateChannel k f s).cvtFlags = s.cvtFlags := by unfold updateChannel; rfl
@[simp] theorem updateChannel_channels (k : Nat) (f : Channel → Channel) (s : State) :
    (updateChannel k f s).channels = mapChannels (fun j c => if j = k then f c else c) s.channels := by unfold updateChannel; rfl
@[simp] theorem updateChannel_rxCap (k : Nat) (f : Channel → Channel) (s : State) :
    (updateChannel k f s).rxCap = s.rxCap := by unfold updateChannel; rfl
@[simp] theorem updateChannel_hostInputs (k : Nat) (f : Channel → Channel) (s : State) :
    (updateChannel k f s).hostInputs = s.hostInputs := by unfold updateChannel; rfl
@[simp] theorem updateChannel_hostPc (k : Nat) (f : Channel → Channel) (s : State) :
    (updateChannel k f s).hostPc = s.hostPc := by unfold updateChannel; rfl
@[simp] theorem updateChannel_hostRead (k : Nat) (f : Channel → Channel) (s : State) :
    (updateChannel k f s).hostRead = s.hostRead := by unfold updateChannel; rfl

@[simp] theorem latchConfig_status (ux fx : Int) (s : State) :
    (latchConfig ux fx s).status = s.status := by unfold latchConfig; rfl
@[simp] theorem latchConfig_errflags (ux fx : Int) (s : State) :
    (latchConfig ux fx s).errflags = s.errflags := by unfold latchConfig; rfl
@[simp] theorem latchConfig_cfgVolt (ux fx : Int) (s : State) :
    (latchConfig ux fx s).cfgVolt = s.cfgVolt := by unfold latchConfig; rfl
@[simp] theorem latchConfig_cfgFreq (ux fx : Int) (s : State) :
    (latchConfig ux fx s).cfgFreq = s.cfgFreq := by unfold latchConfig; rfl
@[simp] theorem latchConfig_cfgImp (ux fx : Int) (s : State) :
    (latchConfig ux fx s).cfgImp = s.cfgImp := by unfold latchConfig; rfl
@[simp] theorem latchConfig_cfgCh (ux fx : Int) (s : State) :
    (latchConfig ux fx s).cfgCh = s.cfgCh := by unfold latchConfig; rfl
@[simp] theorem latchConfig_cfgInt (ux fx : Int) (s : State) :
    (latchConfig ux fx s).cfgInt = s.cfgInt := by unfold latchConfig; rfl
@[simp] theorem latchConfig_cfgValid (ux fx : Int) (s : State) :
    (latchConfig ux fx s).cfgValid = true := by unfold latchConfig; rfl
@[simp] theorem latchConfig_ux (ux fx : Int) (s : State) :
    (latchConfig ux fx s).ux = BitVec.ofInt 8 ux := by unfold latchConfig; rfl
@[simp] theorem latchConfig_fx (ux fx : Int) (s : State) :
    (latchConfig ux fx s).fx = BitVec.ofInt 25 fx := by unfold latchConfig; rfl
@[simp] theorem latchConfig_encCh (ux fx : Int) (s : State) :
    (latchConfig ux fx s).encCh = s.cfgCh.setWidth 8 := by unfold latchConfig; rfl
@[simp] theorem latchConfig_cframe (ux fx : Int) (s : State) :
    (latchConfig ux fx s).cframe = packFrame ux.toNat fx.toNat s.cfgImp.toNat s.cfgCh.toNat s.cfgInt.toNat := by unfold latchConfig; rfl
@[simp] theorem latchConfig_ackLen (ux fx : Int) (s : State) :
    (latchConfig ux fx s).ackLen = s.ackLen := by unfold latchConfig; rfl
@[simp] theorem latchConfig_ackbuf (ux fx : Int) (s : State) :
    (latchConfig ux fx s).ackbuf = s.ackbuf := by unfold latchConfig; rfl
@[simp] theorem latchConfig_ackOk (ux fx : Int) (s : State) :
    (latchConfig ux fx s).ackOk = s.ackOk := by unfold latchConfig; rfl
@[simp] theorem latchConfig_run (ux fx : Int) (s : State) :
    (latchConfig ux fx s).run = s.run := by unfold latchConfig; rfl
@[simp] theorem latchConfig_boardId (ux fx : Int) (s : State) :
    (latchConfig ux fx s).boardId = s.boardId := by unfold latchConfig; rfl
@[simp] theorem latchConfig_actValid (ux fx : Int) (s : State) :
    (latchConfig ux fx s).actValid = s.actValid := by unfold latchConfig; rfl
@[simp] theorem latchConfig_actCh (ux fx : Int) (s : State) :
    (latchConfig ux fx s).actCh = s.actCh := by unfold latchConfig; rfl
@[simp] theorem latchConfig_rx (ux fx : Int) (s : State) :
    (latchConfig ux fx s).rx = s.rx := by unfold latchConfig; rfl
@[simp] theorem latchConfig_frameCount (ux fx : Int) (s : State) :
    (latchConfig ux fx s).frameCount = s.frameCount := by unfold latchConfig; rfl
@[simp] theorem latchConfig_rejectCount (ux fx : Int) (s : State) :
    (latchConfig ux fx s).rejectCount = s.rejectCount := by unfold latchConfig; rfl
@[simp] theorem latchConfig_ovfCount (ux fx : Int) (s : State) :
    (latchConfig ux fx s).ovfCount = s.ovfCount := by unfold latchConfig; rfl
@[simp] theorem latchConfig_frameValid (ux fx : Int) (s : State) :
    (latchConfig ux fx s).frameValid = s.frameValid := by unfold latchConfig; rfl
@[simp] theorem latchConfig_frameCh (ux fx : Int) (s : State) :
    (latchConfig ux fx s).frameCh = s.frameCh := by unfold latchConfig; rfl
@[simp] theorem latchConfig_measCount (ux fx : Int) (s : State) :
    (latchConfig ux fx s).measCount = s.measCount := by unfold latchConfig; rfl
@[simp] theorem latchConfig_recBatRaw (ux fx : Int) (s : State) :
    (latchConfig ux fx s).recBatRaw = s.recBatRaw := by unfold latchConfig; rfl
@[simp] theorem latchConfig_emBatRaw (ux fx : Int) (s : State) :
    (latchConfig ux fx s).emBatRaw = s.emBatRaw := by unfold latchConfig; rfl
@[simp] theorem latchConfig_iPRaw (ux fx : Int) (s : State) :
    (latchConfig ux fx s).iPRaw = s.iPRaw := by unfold latchConfig; rfl
@[simp] theorem latchConfig_iQRaw (ux fx : Int) (s : State) :
    (latchConfig ux fx s).iQRaw = s.iQRaw := by unfold latchConfig; rfl
@[simp] theorem latchConfig_recBatMv (ux fx : Int) (s : State) :
    (latchConfig ux fx s).recBatMv = s.recBatMv := by unfold latchConfig; rfl
@[simp] theorem latchConfig_emBatMv (ux fx : Int) (s : State) :
    (latchConfig ux fx s).emBatMv = s.emBatMv := by unfold latchConfig; rfl
@[simp] theorem latchConfig_iPMa (ux fx : Int) (s : State) :
    (latchConfig ux fx s).iPMa = s.iPMa := by unfold latchConfig; rfl
@[simp] theorem latchConfig_iQMa (ux fx : Int) (s : State) :
    (latchConfig ux fx s).iQMa = s.iQMa := by unfold latchConfig; rfl
@[simp] theorem latchConfig_iMag (ux fx : Int) (s : State) :
    (latchConfig ux fx s).iMag = s.iMag := by unfold latchConfig; rfl
@[simp] theorem latchConfig_cvtFlags (ux fx : Int) (s : State) :
    (latchConfig ux fx s).cvtFlags = s.cvtFlags := by unfold latchConfig; rfl
@[simp] theorem latchConfig_channels (ux fx : Int) (s : State) :
    (latchConfig ux fx s).channels = s.channels := by unfold latchConfig; rfl
@[simp] theorem latchConfig_rxCap (ux fx : Int) (s : State) :
    (latchConfig ux fx s).rxCap = s.rxCap := by unfold latchConfig; rfl
@[simp] theorem latchConfig_hostInputs (ux fx : Int) (s : State) :
    (latchConfig ux fx s).hostInputs = s.hostInputs := by unfold latchConfig; rfl
@[simp] theorem latchConfig_hostPc (ux fx : Int) (s : State) :
    (latchConfig ux fx s).hostPc = s.hostPc := by unfold latchConfig; rfl
@[simp] theorem latchConfig_hostRead (ux fx : Int) (s : State) :
    (latchConfig ux fx s).hostRead = s.hostRead := by unfold latchConfig; rfl

@[simp] theorem latchActive_status (s : State) : (latchActive s).status = s.status := by unfold latchActive; rfl
@[simp] theorem latchActive_errflags (s : State) : (latchActive s).errflags = s.errflags := by unfold latchActive; rfl
@[simp] theorem latchActive_cfgVolt (s : State) : (latchActive s).cfgVolt = s.cfgVolt := by unfold latchActive; rfl
@[simp] theorem latchActive_cfgFreq (s : State) : (latchActive s).cfgFreq = s.cfgFreq := by unfold latchActive; rfl
@[simp] theorem latchActive_cfgImp (s : State) : (latchActive s).cfgImp = s.cfgImp := by unfold latchActive; rfl
@[simp] theorem latchActive_cfgCh (s : State) : (latchActive s).cfgCh = s.cfgCh := by unfold latchActive; rfl
@[simp] theorem latchActive_cfgInt (s : State) : (latchActive s).cfgInt = s.cfgInt := by unfold latchActive; rfl
@[simp] theorem latchActive_cfgValid (s : State) : (latchActive s).cfgValid = s.cfgValid := by unfold latchActive; rfl
@[simp] theorem latchActive_ux (s : State) : (latchActive s).ux = s.ux := by unfold latchActive; rfl
@[simp] theorem latchActive_fx (s : State) : (latchActive s).fx = s.fx := by unfold latchActive; rfl
@[simp] theorem latchActive_encCh (s : State) : (latchActive s).encCh = s.encCh := by unfold latchActive; rfl
@[simp] theorem latchActive_cframe (s : State) : (latchActive s).cframe = s.cframe := by unfold latchActive; rfl
@[simp] theorem latchActive_ackLen (s : State) : (latchActive s).ackLen = s.ackLen := by unfold latchActive; rfl
@[simp] theorem latchActive_ackbuf (s : State) : (latchActive s).ackbuf = s.ackbuf := by unfold latchActive; rfl
@[simp] theorem latchActive_ackOk (s : State) : (latchActive s).ackOk = true := by unfold latchActive; rfl
@[simp] theorem latchActive_run (s : State) :
    (latchActive s).run = statusRun s.ackbuf[10] := by unfold latchActive; rfl
@[simp] theorem latchActive_boardId (s : State) :
    (latchActive s).boardId = statusBoardId s.ackbuf[10] := by unfold latchActive; rfl
@[simp] theorem latchActive_actValid (s : State) : (latchActive s).actValid = true := by unfold latchActive; rfl
@[simp] theorem latchActive_actCh (s : State) : (latchActive s).actCh = s.encCh := by unfold latchActive; rfl
@[simp] theorem latchActive_rx (s : State) : (latchActive s).rx = s.rx := by unfold latchActive; rfl
@[simp] theorem latchActive_frameCount (s : State) :
    (latchActive s).frameCount = s.frameCount := by unfold latchActive; rfl
@[simp] theorem latchActive_rejectCount (s : State) :
    (latchActive s).rejectCount = s.rejectCount := by unfold latchActive; rfl
@[simp] theorem latchActive_ovfCount (s : State) : (latchActive s).ovfCount = s.ovfCount := by unfold latchActive; rfl
@[simp] theorem latchActive_frameValid (s : State) :
    (latchActive s).frameValid = s.frameValid := by unfold latchActive; rfl
@[simp] theorem latchActive_frameCh (s : State) : (latchActive s).frameCh = s.frameCh := by unfold latchActive; rfl
@[simp] theorem latchActive_measCount (s : State) :
    (latchActive s).measCount = s.measCount := by unfold latchActive; rfl
@[simp] theorem latchActive_recBatRaw (s : State) :
    (latchActive s).recBatRaw = s.recBatRaw := by unfold latchActive; rfl
@[simp] theorem latchActive_emBatRaw (s : State) : (latchActive s).emBatRaw = s.emBatRaw := by unfold latchActive; rfl
@[simp] theorem latchActive_iPRaw (s : State) : (latchActive s).iPRaw = s.iPRaw := by unfold latchActive; rfl
@[simp] theorem latchActive_iQRaw (s : State) : (latchActive s).iQRaw = s.iQRaw := by unfold latchActive; rfl
@[simp] theorem latchActive_recBatMv (s : State) : (latchActive s).recBatMv = s.recBatMv := by unfold latchActive; rfl
@[simp] theorem latchActive_emBatMv (s : State) : (latchActive s).emBatMv = s.emBatMv := by unfold latchActive; rfl
@[simp] theorem latchActive_iPMa (s : State) : (latchActive s).iPMa = s.iPMa := by unfold latchActive; rfl
@[simp] theorem latchActive_iQMa (s : State) : (latchActive s).iQMa = s.iQMa := by unfold latchActive; rfl
@[simp] theorem latchActive_iMag (s : State) : (latchActive s).iMag = s.iMag := by unfold latchActive; rfl
@[simp] theorem latchActive_cvtFlags (s : State) : (latchActive s).cvtFlags = s.cvtFlags := by unfold latchActive; rfl
@[simp] theorem latchActive_channels (s : State) : (latchActive s).channels = s.channels := by unfold latchActive; rfl
@[simp] theorem latchActive_rxCap (s : State) : (latchActive s).rxCap = s.rxCap := by unfold latchActive; rfl
@[simp] theorem latchActive_hostInputs (s : State) :
    (latchActive s).hostInputs = s.hostInputs := by unfold latchActive; rfl
@[simp] theorem latchActive_hostPc (s : State) : (latchActive s).hostPc = s.hostPc := by unfold latchActive; rfl
@[simp] theorem latchActive_hostRead (s : State) : (latchActive s).hostRead = s.hostRead := by unfold latchActive; rfl

@[simp] theorem loadFrame_status (f : FrameFields) (s : State) :
    (loadFrame f s).status = s.status := by unfold loadFrame; rfl
@[simp] theorem loadFrame_errflags (f : FrameFields) (s : State) :
    (loadFrame f s).errflags = s.errflags := by unfold loadFrame; rfl
@[simp] theorem loadFrame_cfgVolt (f : FrameFields) (s : State) :
    (loadFrame f s).cfgVolt = s.cfgVolt := by unfold loadFrame; rfl
@[simp] theorem loadFrame_cfgFreq (f : FrameFields) (s : State) :
    (loadFrame f s).cfgFreq = s.cfgFreq := by unfold loadFrame; rfl
@[simp] theorem loadFrame_cfgImp (f : FrameFields) (s : State) :
    (loadFrame f s).cfgImp = s.cfgImp := by unfold loadFrame; rfl
@[simp] theorem loadFrame_cfgCh (f : FrameFields) (s : State) :
    (loadFrame f s).cfgCh = s.cfgCh := by unfold loadFrame; rfl
@[simp] theorem loadFrame_cfgInt (f : FrameFields) (s : State) :
    (loadFrame f s).cfgInt = s.cfgInt := by unfold loadFrame; rfl
@[simp] theorem loadFrame_cfgValid (f : FrameFields) (s : State) :
    (loadFrame f s).cfgValid = s.cfgValid := by unfold loadFrame; rfl
@[simp] theorem loadFrame_ux (f : FrameFields) (s : State) : (loadFrame f s).ux = s.ux := by unfold loadFrame; rfl
@[simp] theorem loadFrame_fx (f : FrameFields) (s : State) : (loadFrame f s).fx = s.fx := by unfold loadFrame; rfl
@[simp] theorem loadFrame_encCh (f : FrameFields) (s : State) :
    (loadFrame f s).encCh = s.encCh := by unfold loadFrame; rfl
@[simp] theorem loadFrame_cframe (f : FrameFields) (s : State) :
    (loadFrame f s).cframe = s.cframe := by unfold loadFrame; rfl
@[simp] theorem loadFrame_ackLen (f : FrameFields) (s : State) :
    (loadFrame f s).ackLen = s.ackLen := by unfold loadFrame; rfl
@[simp] theorem loadFrame_ackbuf (f : FrameFields) (s : State) :
    (loadFrame f s).ackbuf = s.ackbuf := by unfold loadFrame; rfl
@[simp] theorem loadFrame_ackOk (f : FrameFields) (s : State) :
    (loadFrame f s).ackOk = s.ackOk := by unfold loadFrame; rfl
@[simp] theorem loadFrame_run (f : FrameFields) (s : State) : (loadFrame f s).run = s.run := by unfold loadFrame; rfl
@[simp] theorem loadFrame_boardId (f : FrameFields) (s : State) :
    (loadFrame f s).boardId = s.boardId := by unfold loadFrame; rfl
@[simp] theorem loadFrame_actValid (f : FrameFields) (s : State) :
    (loadFrame f s).actValid = s.actValid := by unfold loadFrame; rfl
@[simp] theorem loadFrame_actCh (f : FrameFields) (s : State) :
    (loadFrame f s).actCh = s.actCh := by unfold loadFrame; rfl
@[simp] theorem loadFrame_rx (f : FrameFields) (s : State) : (loadFrame f s).rx = s.rx := by unfold loadFrame; rfl
@[simp] theorem loadFrame_frameCount (f : FrameFields) (s : State) :
    (loadFrame f s).frameCount = s.frameCount + 1#32 := by unfold loadFrame; rfl
@[simp] theorem loadFrame_rejectCount (f : FrameFields) (s : State) :
    (loadFrame f s).rejectCount = s.rejectCount := by unfold loadFrame; rfl
@[simp] theorem loadFrame_ovfCount (f : FrameFields) (s : State) :
    (loadFrame f s).ovfCount = s.ovfCount := by unfold loadFrame; rfl
@[simp] theorem loadFrame_frameValid (f : FrameFields) (s : State) :
    (loadFrame f s).frameValid = true := by unfold loadFrame; rfl
@[simp] theorem loadFrame_frameCh (f : FrameFields) (s : State) :
    (loadFrame f s).frameCh = s.actCh := by unfold loadFrame; rfl
@[simp] theorem loadFrame_measCount (f : FrameFields) (s : State) :
    (loadFrame f s).measCount = BitVec.ofNat 14 f.measureCount := by unfold loadFrame; rfl
@[simp] theorem loadFrame_recBatRaw (f : FrameFields) (s : State) :
    (loadFrame f s).recBatRaw = BitVec.ofNat 14 f.recBatteryCode := by unfold loadFrame; rfl
@[simp] theorem loadFrame_emBatRaw (f : FrameFields) (s : State) :
    (loadFrame f s).emBatRaw = BitVec.ofNat 14 f.emBatteryCode := by unfold loadFrame; rfl
@[simp] theorem loadFrame_iPRaw (f : FrameFields) (s : State) :
    (loadFrame f s).iPRaw = BitVec.ofInt 28 f.phaseCurrentCode := by unfold loadFrame; rfl
@[simp] theorem loadFrame_iQRaw (f : FrameFields) (s : State) :
    (loadFrame f s).iQRaw = BitVec.ofInt 28 f.quadCurrentCode := by unfold loadFrame; rfl
@[simp] theorem loadFrame_recBatMv (f : FrameFields) (s : State) :
    (loadFrame f s).recBatMv = s.recBatMv := by unfold loadFrame; rfl
@[simp] theorem loadFrame_emBatMv (f : FrameFields) (s : State) :
    (loadFrame f s).emBatMv = s.emBatMv := by unfold loadFrame; rfl
@[simp] theorem loadFrame_iPMa (f : FrameFields) (s : State) :
    (loadFrame f s).iPMa = s.iPMa := by unfold loadFrame; rfl
@[simp] theorem loadFrame_iQMa (f : FrameFields) (s : State) :
    (loadFrame f s).iQMa = s.iQMa := by unfold loadFrame; rfl
@[simp] theorem loadFrame_iMag (f : FrameFields) (s : State) :
    (loadFrame f s).iMag = s.iMag := by unfold loadFrame; rfl
@[simp] theorem loadFrame_cvtFlags (f : FrameFields) (s : State) :
    (loadFrame f s).cvtFlags = 0#3 := by unfold loadFrame; rfl
@[simp] theorem loadFrame_channels (f : FrameFields) (s : State) :
    (loadFrame f s).channels = mapChannels (loadChannel f s.actCh.toNat) s.channels := by unfold loadFrame; rfl
@[simp] theorem loadFrame_rxCap (f : FrameFields) (s : State) :
    (loadFrame f s).rxCap = s.rxCap := by unfold loadFrame; rfl
@[simp] theorem loadFrame_hostInputs (f : FrameFields) (s : State) :
    (loadFrame f s).hostInputs = s.hostInputs := by unfold loadFrame; rfl
@[simp] theorem loadFrame_hostPc (f : FrameFields) (s : State) :
    (loadFrame f s).hostPc = s.hostPc := by unfold loadFrame; rfl
@[simp] theorem loadFrame_hostRead (f : FrameFields) (s : State) :
    (loadFrame f s).hostRead = s.hostRead := by unfold loadFrame; rfl

@[simp] theorem batBody_status (s : State) : (batBody s).status = s.status := by unfold batBody; rfl
@[simp] theorem batBody_errflags (s : State) : (batBody s).errflags = s.errflags := by unfold batBody; rfl
@[simp] theorem batBody_cfgVolt (s : State) : (batBody s).cfgVolt = s.cfgVolt := by unfold batBody; rfl
@[simp] theorem batBody_cfgFreq (s : State) : (batBody s).cfgFreq = s.cfgFreq := by unfold batBody; rfl
@[simp] theorem batBody_cfgImp (s : State) : (batBody s).cfgImp = s.cfgImp := by unfold batBody; rfl
@[simp] theorem batBody_cfgCh (s : State) : (batBody s).cfgCh = s.cfgCh := by unfold batBody; rfl
@[simp] theorem batBody_cfgInt (s : State) : (batBody s).cfgInt = s.cfgInt := by unfold batBody; rfl
@[simp] theorem batBody_cfgValid (s : State) : (batBody s).cfgValid = s.cfgValid := by unfold batBody; rfl
@[simp] theorem batBody_ux (s : State) : (batBody s).ux = s.ux := by unfold batBody; rfl
@[simp] theorem batBody_fx (s : State) : (batBody s).fx = s.fx := by unfold batBody; rfl
@[simp] theorem batBody_encCh (s : State) : (batBody s).encCh = s.encCh := by unfold batBody; rfl
@[simp] theorem batBody_cframe (s : State) : (batBody s).cframe = s.cframe := by unfold batBody; rfl
@[simp] theorem batBody_ackLen (s : State) : (batBody s).ackLen = s.ackLen := by unfold batBody; rfl
@[simp] theorem batBody_ackbuf (s : State) : (batBody s).ackbuf = s.ackbuf := by unfold batBody; rfl
@[simp] theorem batBody_ackOk (s : State) : (batBody s).ackOk = s.ackOk := by unfold batBody; rfl
@[simp] theorem batBody_run (s : State) : (batBody s).run = s.run := by unfold batBody; rfl
@[simp] theorem batBody_boardId (s : State) : (batBody s).boardId = s.boardId := by unfold batBody; rfl
@[simp] theorem batBody_actValid (s : State) : (batBody s).actValid = s.actValid := by unfold batBody; rfl
@[simp] theorem batBody_actCh (s : State) : (batBody s).actCh = s.actCh := by unfold batBody; rfl
@[simp] theorem batBody_rx (s : State) : (batBody s).rx = s.rx := by unfold batBody; rfl
@[simp] theorem batBody_frameCount (s : State) : (batBody s).frameCount = s.frameCount := by unfold batBody; rfl
@[simp] theorem batBody_rejectCount (s : State) : (batBody s).rejectCount = s.rejectCount := by unfold batBody; rfl
@[simp] theorem batBody_ovfCount (s : State) : (batBody s).ovfCount = s.ovfCount := by unfold batBody; rfl
@[simp] theorem batBody_frameValid (s : State) : (batBody s).frameValid = s.frameValid := by unfold batBody; rfl
@[simp] theorem batBody_frameCh (s : State) : (batBody s).frameCh = s.frameCh := by unfold batBody; rfl
@[simp] theorem batBody_measCount (s : State) : (batBody s).measCount = s.measCount := by unfold batBody; rfl
@[simp] theorem batBody_recBatRaw (s : State) : (batBody s).recBatRaw = s.recBatRaw := by unfold batBody; rfl
@[simp] theorem batBody_emBatRaw (s : State) : (batBody s).emBatRaw = s.emBatRaw := by unfold batBody; rfl
@[simp] theorem batBody_iPRaw (s : State) : (batBody s).iPRaw = s.iPRaw := by unfold batBody; rfl
@[simp] theorem batBody_iQRaw (s : State) : (batBody s).iQRaw = s.iQRaw := by unfold batBody; rfl
@[simp] theorem batBody_recBatMv (s : State) : (batBody s).recBatMv = batteryMv s.recBatRaw := by unfold batBody; rfl
@[simp] theorem batBody_emBatMv (s : State) : (batBody s).emBatMv = batteryMv s.emBatRaw := by unfold batBody; rfl
@[simp] theorem batBody_iPMa (s : State) : (batBody s).iPMa = s.iPMa := by unfold batBody; rfl
@[simp] theorem batBody_iQMa (s : State) : (batBody s).iQMa = s.iQMa := by unfold batBody; rfl
@[simp] theorem batBody_iMag (s : State) : (batBody s).iMag = s.iMag := by unfold batBody; rfl
@[simp] theorem batBody_cvtFlags (s : State) : (batBody s).cvtFlags = s.cvtFlags ||| batOk := by unfold batBody; rfl
@[simp] theorem batBody_channels (s : State) : (batBody s).channels = s.channels := by unfold batBody; rfl
@[simp] theorem batBody_rxCap (s : State) : (batBody s).rxCap = s.rxCap := by unfold batBody; rfl
@[simp] theorem batBody_hostInputs (s : State) : (batBody s).hostInputs = s.hostInputs := by unfold batBody; rfl
@[simp] theorem batBody_hostPc (s : State) : (batBody s).hostPc = s.hostPc := by unfold batBody; rfl
@[simp] theorem batBody_hostRead (s : State) : (batBody s).hostRead = s.hostRead := by unfold batBody; rfl

@[simp] theorem curBody_status (s : State) : (curBody s).status = s.status := by unfold curBody; rfl
@[simp] theorem curBody_errflags (s : State) : (curBody s).errflags = s.errflags := by unfold curBody; rfl
@[simp] theorem curBody_cfgVolt (s : State) : (curBody s).cfgVolt = s.cfgVolt := by unfold curBody; rfl
@[simp] theorem curBody_cfgFreq (s : State) : (curBody s).cfgFreq = s.cfgFreq := by unfold curBody; rfl
@[simp] theorem curBody_cfgImp (s : State) : (curBody s).cfgImp = s.cfgImp := by unfold curBody; rfl
@[simp] theorem curBody_cfgCh (s : State) : (curBody s).cfgCh = s.cfgCh := by unfold curBody; rfl
@[simp] theorem curBody_cfgInt (s : State) : (curBody s).cfgInt = s.cfgInt := by unfold curBody; rfl
@[simp] theorem curBody_cfgValid (s : State) : (curBody s).cfgValid = s.cfgValid := by unfold curBody; rfl
@[simp] theorem curBody_ux (s : State) : (curBody s).ux = s.ux := by unfold curBody; rfl
@[simp] theorem curBody_fx (s : State) : (curBody s).fx = s.fx := by unfold curBody; rfl
@[simp] theorem curBody_encCh (s : State) : (curBody s).encCh = s.encCh := by unfold curBody; rfl
@[simp] theorem curBody_cframe (s : State) : (curBody s).cframe = s.cframe := by unfold curBody; rfl
@[simp] theorem curBody_ackLen (s : State) : (curBody s).ackLen = s.ackLen := by unfold curBody; rfl
@[simp] theorem curBody_ackbuf (s : State) : (curBody s).ackbuf = s.ackbuf := by unfold curBody; rfl
@[simp] theorem curBody_ackOk (s : State) : (curBody s).ackOk = s.ackOk := by unfold curBody; rfl
@[simp] theorem curBody_run (s : State) : (curBody s).run = s.run := by unfold curBody; rfl
@[simp] theorem curBody_boardId (s : State) : (curBody s).boardId = s.boardId := by unfold curBody; rfl
@[simp] theorem curBody_actValid (s : State) : (curBody s).actValid = s.actValid := by unfold curBody; rfl
@[simp] theorem curBody_actCh (s : State) : (curBody s).actCh = s.actCh := by unfold curBody; rfl
@[simp] theorem curBody_rx (s : State) : (curBody s).rx = s.rx := by unfold curBody; rfl
@[simp] theorem curBody_frameCount (s : State) : (curBody s).frameCount = s.frameCount := by unfold curBody; rfl
@[simp] theorem curBody_rejectCount (s : State) : (curBody s).rejectCount = s.rejectCount := by unfold curBody; rfl
@[simp] theorem curBody_ovfCount (s : State) : (curBody s).ovfCount = s.ovfCount := by unfold curBody; rfl
@[simp] theorem curBody_frameValid (s : State) : (curBody s).frameValid = s.frameValid := by unfold curBody; rfl
@[simp] theorem curBody_frameCh (s : State) : (curBody s).frameCh = s.frameCh := by unfold curBody; rfl
@[simp] theorem curBody_measCount (s : State) : (curBody s).measCount = s.measCount := by unfold curBody; rfl
@[simp] theorem curBody_recBatRaw (s : State) : (curBody s).recBatRaw = s.recBatRaw := by unfold curBody; rfl
@[simp] theorem curBody_emBatRaw (s : State) : (curBody s).emBatRaw = s.emBatRaw := by unfold curBody; rfl
@[simp] theorem curBody_iPRaw (s : State) : (curBody s).iPRaw = s.iPRaw := by unfold curBody; rfl
@[simp] theorem curBody_iQRaw (s : State) : (curBody s).iQRaw = s.iQRaw := by unfold curBody; rfl
@[simp] theorem curBody_recBatMv (s : State) : (curBody s).recBatMv = s.recBatMv := by unfold curBody; rfl
@[simp] theorem curBody_emBatMv (s : State) : (curBody s).emBatMv = s.emBatMv := by unfold curBody; rfl
@[simp] theorem curBody_iPMa (s : State) : (curBody s).iPMa = currentMa s.iPRaw := by unfold curBody; rfl
@[simp] theorem curBody_iQMa (s : State) : (curBody s).iQMa = currentMa s.iQRaw := by unfold curBody; rfl
@[simp] theorem curBody_iMag (s : State) : (curBody s).iMag = s.iMag := by unfold curBody; rfl
@[simp] theorem curBody_cvtFlags (s : State) : (curBody s).cvtFlags = s.cvtFlags ||| curOk := by unfold curBody; rfl
@[simp] theorem curBody_channels (s : State) : (curBody s).channels = s.channels := by unfold curBody; rfl
@[simp] theorem curBody_rxCap (s : State) : (curBody s).rxCap = s.rxCap := by unfold curBody; rfl
@[simp] theorem curBody_hostInputs (s : State) : (curBody s).hostInputs = s.hostInputs := by unfold curBody; rfl
@[simp] theorem curBody_hostPc (s : State) : (curBody s).hostPc = s.hostPc := by unfold curBody; rfl
@[simp] theorem curBody_hostRead (s : State) : (curBody s).hostRead = s.hostRead := by unfold curBody; rfl

@[simp] theorem magiBody_status (s : State) : (magiBody s).status = s.status := by unfold magiBody; rfl
@[simp] theorem magiBody_errflags (s : State) : (magiBody s).errflags = s.errflags := by unfold magiBody; rfl
@[simp] theorem magiBody_cfgVolt (s : State) : (magiBody s).cfgVolt = s.cfgVolt := by unfold magiBody; rfl
@[simp] theorem magiBody_cfgFreq (s : State) : (magiBody s).cfgFreq = s.cfgFreq := by unfold magiBody; rfl
@[simp] theorem magiBody_cfgImp (s : State) : (magiBody s).cfgImp = s.cfgImp := by unfold magiBody; rfl
@[simp] theorem magiBody_cfgCh (s : State) : (magiBody s).cfgCh = s.cfgCh := by unfold magiBody; rfl
@[simp] theorem magiBody_cfgInt (s : State) : (magiBody s).cfgInt = s.cfgInt := by unfold magiBody; rfl
@[simp] theorem magiBody_cfgValid (s : State) : (magiBody s).cfgValid = s.cfgValid := by unfold magiBody; rfl
@[simp] theorem magiBody_ux (s : State) : (magiBody s).ux = s.ux := by unfold magiBody; rfl
@[simp] theorem magiBody_fx (s : State) : (magiBody s).fx = s.fx := by unfold magiBody; rfl
@[simp] theorem magiBody_encCh (s : State) : (magiBody s).encCh = s.encCh := by unfold magiBody; rfl
@[simp] theorem magiBody_cframe (s : State) : (magiBody s).cframe = s.cframe := by unfold magiBody; rfl
@[simp] theorem magiBody_ackLen (s : State) : (magiBody s).ackLen = s.ackLen := by unfold magiBody; rfl
@[simp] theorem magiBody_ackbuf (s : State) : (magiBody s).ackbuf = s.ackbuf := by unfold magiBody; rfl
@[simp] theorem magiBody_ackOk (s : State) : (magiBody s).ackOk = s.ackOk := by unfold magiBody; rfl
@[simp] theorem magiBody_run (s : State) : (magiBody s).run = s.run := by unfold magiBody; rfl
@[simp] theorem magiBody_boardId (s : State) : (magiBody s).boardId = s.boardId := by unfold magiBody; rfl
@[simp] theorem magiBody_actValid (s : State) : (magiBody s).actValid = s.actValid := by unfold magiBody; rfl
@[simp] theorem magiBody_actCh (s : State) : (magiBody s).actCh = s.actCh := by unfold magiBody; rfl
@[simp] theorem magiBody_rx (s : State) : (magiBody s).rx = s.rx := by unfold magiBody; rfl
@[simp] theorem magiBody_frameCount (s : State) : (magiBody s).frameCount = s.frameCount := by unfold magiBody; rfl
@[simp] theorem magiBody_rejectCount (s : State) : (magiBody s).rejectCount = s.rejectCount := by unfold magiBody; rfl
@[simp] theorem magiBody_ovfCount (s : State) : (magiBody s).ovfCount = s.ovfCount := by unfold magiBody; rfl
@[simp] theorem magiBody_frameValid (s : State) : (magiBody s).frameValid = s.frameValid := by unfold magiBody; rfl
@[simp] theorem magiBody_frameCh (s : State) : (magiBody s).frameCh = s.frameCh := by unfold magiBody; rfl
@[simp] theorem magiBody_measCount (s : State) : (magiBody s).measCount = s.measCount := by unfold magiBody; rfl
@[simp] theorem magiBody_recBatRaw (s : State) : (magiBody s).recBatRaw = s.recBatRaw := by unfold magiBody; rfl
@[simp] theorem magiBody_emBatRaw (s : State) : (magiBody s).emBatRaw = s.emBatRaw := by unfold magiBody; rfl
@[simp] theorem magiBody_iPRaw (s : State) : (magiBody s).iPRaw = s.iPRaw := by unfold magiBody; rfl
@[simp] theorem magiBody_iQRaw (s : State) : (magiBody s).iQRaw = s.iQRaw := by unfold magiBody; rfl
@[simp] theorem magiBody_recBatMv (s : State) : (magiBody s).recBatMv = s.recBatMv := by unfold magiBody; rfl
@[simp] theorem magiBody_emBatMv (s : State) : (magiBody s).emBatMv = s.emBatMv := by unfold magiBody; rfl
@[simp] theorem magiBody_iPMa (s : State) : (magiBody s).iPMa = s.iPMa := by unfold magiBody; rfl
@[simp] theorem magiBody_iQMa (s : State) : (magiBody s).iQMa = s.iQMa := by unfold magiBody; rfl
@[simp] theorem magiBody_iMag (s : State) :
    (magiBody s).iMag = currentMag (currentSquares s) := by unfold magiBody; rfl
@[simp] theorem magiBody_cvtFlags (s : State) :
    (magiBody s).cvtFlags = s.cvtFlags ||| magiOk := by unfold magiBody; rfl
@[simp] theorem magiBody_channels (s : State) : (magiBody s).channels = s.channels := by unfold magiBody; rfl
@[simp] theorem magiBody_rxCap (s : State) : (magiBody s).rxCap = s.rxCap := by unfold magiBody; rfl
@[simp] theorem magiBody_hostInputs (s : State) : (magiBody s).hostInputs = s.hostInputs := by unfold magiBody; rfl
@[simp] theorem magiBody_hostPc (s : State) : (magiBody s).hostPc = s.hostPc := by unfold magiBody; rfl
@[simp] theorem magiBody_hostRead (s : State) : (magiBody s).hostRead = s.hostRead := by unfold magiBody; rfl

@[simp] theorem allChannels_status (s : State) : (allChannels s).status = s.status := by unfold allChannels; rfl
@[simp] theorem allChannels_errflags (s : State) : (allChannels s).errflags = s.errflags := by unfold allChannels; rfl
@[simp] theorem allChannels_cfgVolt (s : State) : (allChannels s).cfgVolt = s.cfgVolt := by unfold allChannels; rfl
@[simp] theorem allChannels_cfgFreq (s : State) : (allChannels s).cfgFreq = s.cfgFreq := by unfold allChannels; rfl
@[simp] theorem allChannels_cfgImp (s : State) : (allChannels s).cfgImp = s.cfgImp := by unfold allChannels; rfl
@[simp] theorem allChannels_cfgCh (s : State) : (allChannels s).cfgCh = s.cfgCh := by unfold allChannels; rfl
@[simp] theorem allChannels_cfgInt (s : State) : (allChannels s).cfgInt = s.cfgInt := by unfold allChannels; rfl
@[simp] theorem allChannels_cfgValid (s : State) : (allChannels s).cfgValid = s.cfgValid := by unfold allChannels; rfl
@[simp] theorem allChannels_ux (s : State) : (allChannels s).ux = s.ux := by unfold allChannels; rfl
@[simp] theorem allChannels_fx (s : State) : (allChannels s).fx = s.fx := by unfold allChannels; rfl
@[simp] theorem allChannels_encCh (s : State) : (allChannels s).encCh = s.encCh := by unfold allChannels; rfl
@[simp] theorem allChannels_cframe (s : State) : (allChannels s).cframe = s.cframe := by unfold allChannels; rfl
@[simp] theorem allChannels_ackLen (s : State) : (allChannels s).ackLen = s.ackLen := by unfold allChannels; rfl
@[simp] theorem allChannels_ackbuf (s : State) : (allChannels s).ackbuf = s.ackbuf := by unfold allChannels; rfl
@[simp] theorem allChannels_ackOk (s : State) : (allChannels s).ackOk = s.ackOk := by unfold allChannels; rfl
@[simp] theorem allChannels_run (s : State) : (allChannels s).run = s.run := by unfold allChannels; rfl
@[simp] theorem allChannels_boardId (s : State) : (allChannels s).boardId = s.boardId := by unfold allChannels; rfl
@[simp] theorem allChannels_actValid (s : State) : (allChannels s).actValid = s.actValid := by unfold allChannels; rfl
@[simp] theorem allChannels_actCh (s : State) : (allChannels s).actCh = s.actCh := by unfold allChannels; rfl
@[simp] theorem allChannels_rx (s : State) : (allChannels s).rx = s.rx := by unfold allChannels; rfl
@[simp] theorem allChannels_frameCount (s : State) :
    (allChannels s).frameCount = s.frameCount := by unfold allChannels; rfl
@[simp] theorem allChannels_rejectCount (s : State) :
    (allChannels s).rejectCount = s.rejectCount := by unfold allChannels; rfl
@[simp] theorem allChannels_ovfCount (s : State) : (allChannels s).ovfCount = s.ovfCount := by unfold allChannels; rfl
@[simp] theorem allChannels_frameValid (s : State) :
    (allChannels s).frameValid = s.frameValid := by unfold allChannels; rfl
@[simp] theorem allChannels_frameCh (s : State) : (allChannels s).frameCh = s.frameCh := by unfold allChannels; rfl
@[simp] theorem allChannels_measCount (s : State) :
    (allChannels s).measCount = s.measCount := by unfold allChannels; rfl
@[simp] theorem allChannels_recBatRaw (s : State) :
    (allChannels s).recBatRaw = s.recBatRaw := by unfold allChannels; rfl
@[simp] theorem allChannels_emBatRaw (s : State) : (allChannels s).emBatRaw = s.emBatRaw := by unfold allChannels; rfl
@[simp] theorem allChannels_iPRaw (s : State) : (allChannels s).iPRaw = s.iPRaw := by unfold allChannels; rfl
@[simp] theorem allChannels_iQRaw (s : State) : (allChannels s).iQRaw = s.iQRaw := by unfold allChannels; rfl
@[simp] theorem allChannels_recBatMv (s : State) : (allChannels s).recBatMv = s.recBatMv := by unfold allChannels; rfl
@[simp] theorem allChannels_emBatMv (s : State) : (allChannels s).emBatMv = s.emBatMv := by unfold allChannels; rfl
@[simp] theorem allChannels_iPMa (s : State) : (allChannels s).iPMa = s.iPMa := by unfold allChannels; rfl
@[simp] theorem allChannels_iQMa (s : State) : (allChannels s).iQMa = s.iQMa := by unfold allChannels; rfl
@[simp] theorem allChannels_iMag (s : State) : (allChannels s).iMag = s.iMag := by unfold allChannels; rfl
@[simp] theorem allChannels_cvtFlags (s : State) : (allChannels s).cvtFlags = s.cvtFlags := by unfold allChannels; rfl
@[simp] theorem allChannels_channels (s : State) :
    (allChannels s).channels = mapChannels (fun k c => if k < s.frameCh.toNat then channelBody s.iPRaw.toInt s.iQRaw.toInt c else c) s.channels := by unfold allChannels; rfl
@[simp] theorem allChannels_rxCap (s : State) : (allChannels s).rxCap = s.rxCap := by unfold allChannels; rfl
@[simp] theorem allChannels_hostInputs (s : State) :
    (allChannels s).hostInputs = s.hostInputs := by unfold allChannels; rfl
@[simp] theorem allChannels_hostPc (s : State) : (allChannels s).hostPc = s.hostPc := by unfold allChannels; rfl
@[simp] theorem allChannels_hostRead (s : State) : (allChannels s).hostRead = s.hostRead := by unfold allChannels; rfl

@[simp] theorem resetBlock_status (s : State) : (resetBlock s).status = State.reset.status := rfl
@[simp] theorem resetBlock_errflags (s : State) : (resetBlock s).errflags = State.reset.errflags := rfl
@[simp] theorem resetBlock_cfgVolt (s : State) : (resetBlock s).cfgVolt = State.reset.cfgVolt := rfl
@[simp] theorem resetBlock_cfgFreq (s : State) : (resetBlock s).cfgFreq = State.reset.cfgFreq := rfl
@[simp] theorem resetBlock_cfgImp (s : State) : (resetBlock s).cfgImp = State.reset.cfgImp := rfl
@[simp] theorem resetBlock_cfgCh (s : State) : (resetBlock s).cfgCh = State.reset.cfgCh := rfl
@[simp] theorem resetBlock_cfgInt (s : State) : (resetBlock s).cfgInt = State.reset.cfgInt := rfl
@[simp] theorem resetBlock_cfgValid (s : State) : (resetBlock s).cfgValid = State.reset.cfgValid := rfl
@[simp] theorem resetBlock_ux (s : State) : (resetBlock s).ux = State.reset.ux := rfl
@[simp] theorem resetBlock_fx (s : State) : (resetBlock s).fx = State.reset.fx := rfl
@[simp] theorem resetBlock_encCh (s : State) : (resetBlock s).encCh = State.reset.encCh := rfl
@[simp] theorem resetBlock_cframe (s : State) : (resetBlock s).cframe = State.reset.cframe := rfl
@[simp] theorem resetBlock_ackLen (s : State) : (resetBlock s).ackLen = State.reset.ackLen := rfl
@[simp] theorem resetBlock_ackbuf (s : State) : (resetBlock s).ackbuf = State.reset.ackbuf := rfl
@[simp] theorem resetBlock_ackOk (s : State) : (resetBlock s).ackOk = State.reset.ackOk := rfl
@[simp] theorem resetBlock_run (s : State) : (resetBlock s).run = State.reset.run := rfl
@[simp] theorem resetBlock_boardId (s : State) : (resetBlock s).boardId = State.reset.boardId := rfl
@[simp] theorem resetBlock_actValid (s : State) : (resetBlock s).actValid = State.reset.actValid := rfl
@[simp] theorem resetBlock_actCh (s : State) : (resetBlock s).actCh = State.reset.actCh := rfl
@[simp] theorem resetBlock_rx (s : State) : (resetBlock s).rx = State.reset.rx := rfl
@[simp] theorem resetBlock_frameCount (s : State) : (resetBlock s).frameCount = State.reset.frameCount := rfl
@[simp] theorem resetBlock_rejectCount (s : State) : (resetBlock s).rejectCount = State.reset.rejectCount := rfl
@[simp] theorem resetBlock_ovfCount (s : State) : (resetBlock s).ovfCount = State.reset.ovfCount := rfl
@[simp] theorem resetBlock_frameValid (s : State) : (resetBlock s).frameValid = State.reset.frameValid := rfl
@[simp] theorem resetBlock_frameCh (s : State) : (resetBlock s).frameCh = State.reset.frameCh := rfl
@[simp] theorem resetBlock_measCount (s : State) : (resetBlock s).measCount = State.reset.measCount := rfl
@[simp] theorem resetBlock_recBatRaw (s : State) : (resetBlock s).recBatRaw = State.reset.recBatRaw := rfl
@[simp] theorem resetBlock_emBatRaw (s : State) : (resetBlock s).emBatRaw = State.reset.emBatRaw := rfl
@[simp] theorem resetBlock_iPRaw (s : State) : (resetBlock s).iPRaw = State.reset.iPRaw := rfl
@[simp] theorem resetBlock_iQRaw (s : State) : (resetBlock s).iQRaw = State.reset.iQRaw := rfl
@[simp] theorem resetBlock_recBatMv (s : State) : (resetBlock s).recBatMv = State.reset.recBatMv := rfl
@[simp] theorem resetBlock_emBatMv (s : State) : (resetBlock s).emBatMv = State.reset.emBatMv := rfl
@[simp] theorem resetBlock_iPMa (s : State) : (resetBlock s).iPMa = State.reset.iPMa := rfl
@[simp] theorem resetBlock_iQMa (s : State) : (resetBlock s).iQMa = State.reset.iQMa := rfl
@[simp] theorem resetBlock_iMag (s : State) : (resetBlock s).iMag = State.reset.iMag := rfl
@[simp] theorem resetBlock_cvtFlags (s : State) : (resetBlock s).cvtFlags = State.reset.cvtFlags := rfl
@[simp] theorem resetBlock_channels (s : State) : (resetBlock s).channels = State.reset.channels := rfl
@[simp] theorem resetBlock_rxCap (s : State) : (resetBlock s).rxCap = s.rxCap := rfl
@[simp] theorem resetBlock_hostInputs (s : State) : (resetBlock s).hostInputs = s.hostInputs := rfl
@[simp] theorem resetBlock_hostPc (s : State) : (resetBlock s).hostPc = s.hostPc := rfl
@[simp] theorem resetBlock_hostRead (s : State) : (resetBlock s).hostRead = s.hostRead := rfl

end Sys2Proof.Machine
end

