-- ==== Sys2Proof/Laws/Ops.lean ====
section
/-! SUPPORT. What each shared operation of Machine/Ops.lean, Machine/Flags.lean and Machine/Operands.lean can do. -/

namespace Sys2Proof.Machine

/-! Result codes, STATUS and ERRFLAGS. -/

theorem codeNumber_le (c : ResultCode) : codeNumber c ≤ 10 := by cases c <;> decide

@[simp] theorem codeNumber_ok : codeNumber .ok = 0 := rfl
@[simp] theorem codeNumber_cfgParam : codeNumber .cfgParam = 1 := rfl
@[simp] theorem codeNumber_ackMismatch : codeNumber .ackMismatch = 2 := rfl
@[simp] theorem codeNumber_noConfig : codeNumber .noConfig = 3 := rfl
@[simp] theorem codeNumber_frameShort : codeNumber .frameShort = 4 := rfl
@[simp] theorem codeNumber_frameRejected : codeNumber .frameRejected = 5 := rfl
@[simp] theorem codeNumber_noFrame : codeNumber .noFrame = 6 := rfl
@[simp] theorem codeNumber_badChannel : codeNumber .badChannel = 7 := rfl
@[simp] theorem codeNumber_rxOverflow : codeNumber .rxOverflow = 8 := rfl
@[simp] theorem codeNumber_rhoUndefined : codeNumber .rhoUndefined = 9 := rfl
@[simp] theorem codeNumber_illegalCmd : codeNumber .illegalCmd = 10 := rfl

theorem statusWord_code (op : Byte) (c : ResultCode) :
    (statusWord op c).extractLsb' 0 8 = BitVec.ofNat 8 (codeNumber c) := by
  rw [statusWord, BitVec.extractLsb'_append_eq_right]

theorem statusWord_lastOp (op : Byte) (c : ResultCode) : (statusWord op c).extractLsb' 8 8 = op := by
  rw [statusWord, BitVec.extractLsb'_append_eq_left]

@[simp] theorem statusCode_finish (op : Byte) (c : ResultCode) (s : State) :
    statusCode (finish op c s) = BitVec.ofNat 8 (codeNumber c) := statusWord_code op c

@[simp] theorem statusLastOp_finish (op : Byte) (c : ResultCode) (s : State) :
    statusLastOp (finish op c s) = op := statusWord_lastOp op c

@[simp] theorem raiseFlag_ok (e : BitVec 16) : raiseFlag e .ok = e := rfl

/-- A bit of ERRFLAGS after `finish`: set before, or the code's own bit. -/
theorem raiseFlag_getLsbD (e : BitVec 16) (c : ResultCode) (j : Nat) :
    (raiseFlag e c).getLsbD j = (e.getLsbD j || (decide (codeNumber c ≠ 0) && decide (j = codeNumber c))) := by
  have h := codeNumber_le c
  unfold raiseFlag
  split
  · simp_all
  · rename_i h0
    simp only [BitVec.getLsbD_or, BitVec.getLsbD_shiftLeft, BitVec.getLsbD_one]
    congr 1
    rw [Bool.eq_iff_iff]
    simp
    omega

/-- Raising a flag twice is raising it once. -/
theorem raiseFlag_raiseFlag (e : BitVec 16) (c : ResultCode) :
    raiseFlag (raiseFlag e c) c = raiseFlag e c := by
  unfold raiseFlag
  split
  · rfl
  · rw [BitVec.or_assoc, BitVec.or_self]

/-- The order in which two flags are raised does not matter. -/
theorem raiseFlag_comm (e : BitVec 16) (c d : ResultCode) :
    raiseFlag (raiseFlag e c) d = raiseFlag (raiseFlag e d) c := by
  unfold raiseFlag
  split <;> split <;> first | rfl | ac_rfl

/-! The reception buffer (R67). -/

/-- Dropping min(n, RX_LEN) bytes is dropping n. -/
@[simp] theorem rxDropFront_rx (n : Nat) (s : State) : (rxDropFront n s).rx = s.rx.drop n := by
  show s.rx.drop (min n s.rx.length) = s.rx.drop n
  rcases Nat.le_total n s.rx.length with h | h
  · rw [Nat.min_eq_left h]
  · rw [Nat.min_eq_right h, List.drop_of_length_le h, List.drop_length]

theorem rxPeek_of_lt {rx : List Byte} {i : Nat} (h : i < rx.length) : rxPeek rx i = rx[i] := by
  simp [rxPeek, h]

theorem rxPeek_of_le {rx : List Byte} {i : Nat} (h : rx.length ≤ i) : rxPeek rx i = 0#8 := by
  simp [rxPeek, h]

/-- Bytes that arrive later do not change the front. -/
theorem rxPeek_append_left {rx : List Byte} {i : Nat} (h : i < rx.length) (bs : List Byte) :
    rxPeek (rx ++ bs) i = rxPeek rx i := by
  simp [rxPeek, List.getElem?_append_left h]

/-! The acknowledgement buffer (R69). -/

theorem getElem_ackStore (buf : Vector Byte 11) (len : Nat) (b : Byte) (i : Nat) (h : i < 11) :
    (ackStore buf len b)[i] = if i = len then b else buf[i] := by
  unfold ackStore
  split
  · rw [Vector.getElem_set]
    simp [eq_comm]
  · rw [if_neg (by omega)]

theorem ackAppend_ackLen_toNat (b : Byte) (s : State) :
    (ackAppend b s).ackLen.toNat = min (s.ackLen.toNat + 1) 255 := by
  show (BitVec.ofNat 8 (min (s.ackLen.toNat + 1) 255)).toNat = _
  rw [BitVec.toNat_ofNat]
  omega

/-! The channel arrays. -/

theorem getElem_mapFrom (f : Nat → Channel → Channel) (i : Nat) (cs : List Channel) (k : Nat)
    (h : k < (mapFrom f i cs).length) :
    (mapFrom f i cs)[k] = f (i + k) (cs[k]'(by rwa [length_mapFrom] at h)) := by
  induction cs generalizing i k with
  | nil => simp [mapFrom] at h
  | cons c cs ih =>
    cases k with
    | zero => simp [mapFrom]
    | succ k =>
      simp only [mapFrom, List.getElem_cons_succ]
      rw [ih]
      congr 1
      omega

/-- Channel k of the mapped arrays is `f k` of channel k. -/
@[simp] theorem getElem_mapChannels (f : Nat → Channel → Channel) (v : Vector Channel 255) (k : Nat)
    (h : k < 255) : (mapChannels f v)[k] = f k v[k] := by
  show (mapFrom f 0 v.toList).toArray[k]'(by simp [length_mapFrom, h]) = _
  simp [getElem_mapFrom]

/-- Two maps in a row are one. -/
theorem mapChannels_mapChannels (f g : Nat → Channel → Channel) (v : Vector Channel 255) :
    mapChannels g (mapChannels f v) = mapChannels (fun k c => g k (f k c)) v := by
  ext1 k hk
  simp

theorem mapChannels_congr {f g : Nat → Channel → Channel} {v : Vector Channel 255}
    (h : ∀ k (hk : k < 255), f k v[k] = g k v[k]) : mapChannels f v = mapChannels g v := by
  ext1 k hk
  simp [h k hk]

theorem channelAt_of_lt (v : Vector Channel 255) {k : Nat} (h : k < 255) : channelAt v k = v[k] := by
  simp [channelAt, h]

@[simp] theorem updateChannel_channels_getElem (k : Nat) (f : Channel → Channel) (s : State) (j : Nat)
    (h : j < 255) : (updateChannel k f s).channels[j] = if j = k then f s.channels[j] else s.channels[j] :=
  getElem_mapChannels _ _ _ h

/-- After reset every channel register is 0. -/
@[simp] theorem reset_channels_getElem (k : Nat) (h : k < 255) : State.reset.channels[k] = Channel.reset := by
  simp [State.reset]

/-- A channel of the extracted frame is one of the 255 channels. -/
theorem lt_255_of_channelInFrame {s : State} {k : BitVec 8} (h : channelInFrame s k = true) : k.toNat < 255 := by
  have h1 : k.toNat < s.frameCh.toNat := of_decide_eq_true h
  have h2 := s.frameCh.isLt
  omega

end Sys2Proof.Machine
end

