-- ==== Sys2Proof/Laws/Codec.lean ====
section
/-! SUPPORT. The Frame Codec's ranges, and that the validator reads only the front of the buffer (R101, R103, R174). -/

namespace Sys2Proof.Machine

theorem byte_and_7F_lt (b : Byte) : b.toNat &&& 0x7F < 128 :=
  Nat.lt_succ_of_le Nat.and_le_right

/-- R101: "0 <= result < 2^(7n)". -/
theorem decU_lt (bs : List Byte) (o n : Nat) : decU bs o n < 2 ^ (7 * n) := by
  induction n with
  | zero => simp [decU]
  | succ n ih =>
    have hb := byte_and_7F_lt (rxPeek bs (o + n))
    rw [decU, Nat.shiftLeft_eq, show 7 * (n + 1) = 7 * n + 7 by ring, Nat.pow_add]
    nlinarith [Nat.one_le_two_pow (n := 7 * n)]

/-- R102's range. -/
theorem decU14_lt (bs : List Byte) (o : Nat) : decU14 bs o < 2 ^ 14 := decU_lt bs o 2

/-- R103's range. -/
theorem decS28_range (bs : List Byte) (o : Nat) : -2 ^ 27 ≤ decS28 bs o ∧ decS28 bs o < 2 ^ 27 := by
  have h := decU_lt bs o 4
  simp only [decS28]
  split <;> omega

/-- A decode reads only its own bytes. -/
theorem decU_congr {xs ys : List Byte} {o n : Nat} (h : ∀ i, o ≤ i → i < o + n → rxPeek xs i = rxPeek ys i) :
    decU xs o n = decU ys o n := by
  induction n with
  | zero => rfl
  | succ n ih =>
    rw [decU, decU, ih (fun i h1 h2 => h i h1 (by omega)), h (o + n) (by omega) (by omega)]

theorem decS28_congr {xs ys : List Byte} {o : Nat} (h : ∀ i, o ≤ i → i < o + 4 → rxPeek xs i = rxPeek ys i) :
    decS28 xs o = decS28 ys o := by
  simp only [decS28, decU_congr h]

/-- TagOK as a statement about each byte. -/
theorem tagOk_iff (bs : List Byte) (n : Nat) :
    tagOk bs n = true ↔ ∀ i < requiredLength n, (rxPeek bs i).getLsbD 7 = expectedTag i n := by
  simp [tagOk]

/-- The three answers of Verdict (R174). -/
theorem verdict_short_iff (rx : List Byte) (n : Nat) : verdict rx n = .short ↔ rx.length < requiredLength n := by
  unfold verdict
  split
  · simp_all
  · split <;> simp_all

theorem verdict_valid_iff (rx : List Byte) (n : Nat) :
    verdict rx n = .valid ↔ requiredLength n ≤ rx.length ∧ tagOk rx n = true := by
  unfold verdict
  split
  · simp_all
  · split <;> simp_all

theorem verdict_rejected_iff (rx : List Byte) (n : Nat) :
    verdict rx n = .rejected ↔ requiredLength n ≤ rx.length ∧ tagOk rx n = false := by
  unfold verdict
  split
  · simp_all
  · split <;> simp_all

end Sys2Proof.Machine
end

