-- ==== Sys2Proof/Laws/Words.lean ====
section
/-! SUPPORT. The three fields of a command word (R84) and the words the encoder builds from them. -/

namespace Sys2Proof

theorem wordOf_getLsbD (imm : BitVec 16) (arg op : Byte) (j : Nat) :
    (wordOf imm arg op).getLsbD j =
      if j < 8 then op.getLsbD j else if j < 16 then arg.getLsbD (j - 8) else imm.getLsbD (j - 16) := by
  simp only [wordOf, BitVec.getLsbD_append]
  by_cases h1 : j < 8
  · simp [h1]
  · by_cases h2 : j < 16
    · simp [h1, h2, show j - 8 < 8 by omega]
    · simp [h1, h2, show ¬ j - 8 < 8 by omega, show j - 8 - 8 = j - 16 by omega]

@[simp] theorem opField_wordOf (imm : BitVec 16) (arg op : Byte) : opField (wordOf imm arg op) = op := by
  apply BitVec.eq_of_getLsbD_eq
  intro j hj
  simp [opField, wordOf_getLsbD, hj]

@[simp] theorem argField_wordOf (imm : BitVec 16) (arg op : Byte) : argField (wordOf imm arg op) = arg := by
  apply BitVec.eq_of_getLsbD_eq
  intro j hj
  simp only [argField, BitVec.getLsbD_extractLsb', wordOf_getLsbD, hj, decide_true, Bool.true_and]
  rw [if_neg (by omega), if_pos (by omega), Nat.add_sub_cancel_left]

@[simp] theorem immField_wordOf (imm : BitVec 16) (arg op : Byte) : immField (wordOf imm arg op) = imm := by
  apply BitVec.eq_of_getLsbD_eq
  intro j hj
  simp only [immField, BitVec.getLsbD_extractLsb', wordOf_getLsbD, hj, decide_true, Bool.true_and]
  rw [if_neg (by omega), if_neg (by omega), Nat.add_sub_cancel_left]

/-- A word is its three fields. -/
theorem wordOf_fields (w : Word) : wordOf (immField w) (argField w) (opField w) = w := by
  apply BitVec.eq_of_getLsbD_eq
  intro j hj
  simp only [wordOf_getLsbD, opField, argField, immField, BitVec.getLsbD_extractLsb']
  split
  · simp_all
  · split
    · simp [show j - 8 < 8 by omega, show 8 + (j - 8) = j by omega]
    · simp [show j - 16 < 16 by omega, show 16 + (j - 16) = j by omega]

/-- The op of each command (R86's op column). -/
def opcodeOf : Instr → Byte
  | .nop => 0x00#8
  | .reset => 0x01#8
  | .errclr => 0x02#8
  | .setv _ => 0x10#8
  | .setfl _ => 0x11#8
  | .setfh _ => 0x12#8
  | .setimp _ => 0x13#8
  | .setch _ => 0x14#8
  | .setint _ => 0x15#8
  | .enc => 0x18#8
  | .ackb _ => 0x20#8
  | .ackclr => 0x21#8
  | .vack => 0x22#8
  | .rxb _ => 0x30#8
  | .rxclr => 0x31#8
  | .rxdrop _ => 0x32#8
  | .val => 0x33#8
  | .cbat => 0x40#8
  | .ccur => 0x41#8
  | .cmagi => 0x42#8
  | .cpot _ => 0x43#8
  | .cmagv _ => 0x44#8
  | .crho _ => 0x45#8
  | .call => 0x4F#8

@[simp] theorem opField_encode (i : Instr) : opField (encode i) = opcodeOf i := by
  cases i <;> exact opField_wordOf _ _ _

end Sys2Proof
end

