-- ==== Sys2Proof/Laws/Effects.lean ====
section
/-! SUPPORT. Everything a command can do, said once: `Effect s i c u` when the command `i` at `s` ends with code `c`
after making the state `u`, before `finish` records the result. One constructor for each path of a command's rule;
RESET, which ends with no code, is apart. -/

namespace Sys2Proof.Machine

inductive Effect (s : State) : Instr → ResultCode → State → Prop where
  | nop : Effect s .nop .ok s
  | errclr : Effect s .errclr .ok { s with errflags := 0#16 }
  | setv (imm : BitVec 16) : Effect s (.setv imm) .ok { s with cfgVolt := imm }
  | setfl (imm : BitVec 16) : Effect s (.setfl imm) .ok { s with cfgFreq := withFreqLow s.cfgFreq imm }
  | setfh (imm : BitVec 16) : Effect s (.setfh imm) .ok { s with cfgFreq := withFreqHigh s.cfgFreq imm }
  | setimp (imm : BitVec 16) : Effect s (.setimp imm) .ok { s with cfgImp := imm }
  | setch (imm : BitVec 16) : Effect s (.setch imm) .ok { s with cfgCh := imm }
  | setint (imm : BitVec 16) : Effect s (.setint imm) .ok { s with cfgInt := imm }
  | encFail : stagedCheck s = none → Effect s .enc .cfgParam { s with ackOk := false, cfgValid := false }
  | encOk (ux fx : Int) : stagedCheck s = some (ux, fx) →
      Effect s .enc .ok (latchConfig ux fx { s with ackOk := false })
  | ackb (b : Byte) : Effect s (.ackb b) .ok (ackAppend b s)
  | ackclr : Effect s .ackclr .ok (ackClear s)
  | vackNone : s.cfgValid = false → Effect s .vack .noConfig s
  | vackBad : s.cfgValid = true → ackMatch s = false →
      Effect s .vack .ackMismatch { s with ackOk := false, actValid := false }
  | vackOk : s.cfgValid = true → ackMatch s = true → Effect s .vack .ok (latchActive s)
  | rxbFull (b : Byte) : s.rx.length = s.rxCap →
      Effect s (.rxb b) .rxOverflow { s with ovfCount := s.ovfCount + 1#32 }
  | rxbOk (b : Byte) : s.rx.length ≠ s.rxCap → Effect s (.rxb b) .ok (rxAppend b s)
  | rxclr : Effect s .rxclr .ok (rxClear s)
  | rxdrop (imm : BitVec 16) : Effect s (.rxdrop imm) .ok (rxDropFront (dropCount imm) s)
  | valNone : s.actValid = false → Effect s .val .noConfig s
  | valShort : s.actValid = true → verdict s.rx s.actCh.toNat = .short → Effect s .val .frameShort s
  | valRejected : s.actValid = true → verdict s.rx s.actCh.toNat = .rejected →
      Effect s .val .frameRejected { s with rejectCount := s.rejectCount + 1#32 }
  | valOk : s.actValid = true → verdict s.rx s.actCh.toNat = .valid →
      Effect s .val .ok (loadFrame (extract s.rx s.actCh.toNat) s)
  | cbatNone : s.frameValid = false → Effect s .cbat .noFrame s
  | cbatOk : s.frameValid = true → Effect s .cbat .ok (batBody s)
  | ccurNone : s.frameValid = false → Effect s .ccur .noFrame s
  | ccurOk : s.frameValid = true → Effect s .ccur .ok (curBody s)
  | cmagiNone : s.frameValid = false → Effect s .cmagi .noFrame s
  | cmagiOk : s.frameValid = true → Effect s .cmagi .ok (magiBody s)
  | cpotNone (k : BitVec 8) : s.frameValid = false → Effect s (.cpot k) .noFrame s
  | cpotBad (k : BitVec 8) : s.frameValid = true → channelInFrame s k = false → Effect s (.cpot k) .badChannel s
  | cpotOk (k : BitVec 8) : s.frameValid = true → channelInFrame s k = true →
      Effect s (.cpot k) .ok (updateChannel k.toNat potBody s)
  | cmagvNone (k : BitVec 8) : s.frameValid = false → Effect s (.cmagv k) .noFrame s
  | cmagvBad (k : BitVec 8) : s.frameValid = true → channelInFrame s k = false → Effect s (.cmagv k) .badChannel s
  | cmagvOk (k : BitVec 8) : s.frameValid = true → channelInFrame s k = true →
      Effect s (.cmagv k) .ok (updateChannel k.toNat magvBody s)
  | crhoNone (k : BitVec 8) : s.frameValid = false → Effect s (.crho k) .noFrame s
  | crhoBad (k : BitVec 8) : s.frameValid = true → channelInFrame s k = false → Effect s (.crho k) .badChannel s
  | crhoOk (k : BitVec 8) : s.frameValid = true → channelInFrame s k = true →
      Effect s (.crho k) (rhoCode s) (updateChannel k.toNat (rhoBody s.iPRaw.toInt s.iQRaw.toInt) s)
  | callNone : s.frameValid = false → Effect s .call .noFrame s
  | callOk : s.frameValid = true →
      Effect s .call (callCode s) (allChannels (magiBody (curBody (batBody s))))

theorem exec_reset (s : State) : exec .reset s = .next (resetBlock s) := rfl

/-- Every path of a command is taken by `exec`. -/
theorem exec_of_effect {s : State} {i : Instr} {c : ResultCode} {u : State} (h : Effect s i c u) :
    exec i s = .next (finish (opcodeOf i) c u) := by
  cases h with
  | encFail h => simp only [exec, execEnc, h, opcodeOf]
  | encOk ux fx h => simp only [exec, execEnc, h, opcodeOf]
  | vackNone h => exact if_pos h
  | vackBad h h' => exact (if_neg (by simp [h])).trans (if_pos h')
  | vackOk h h' => exact (if_neg (by simp [h])).trans (if_neg (by simp [h']))
  | rxbFull b h => exact if_pos h
  | rxbOk b h => exact if_neg h
  | valNone h => exact if_pos h
  | valShort h h' => exact (if_neg (by simp [h])).trans (by rw [h']; rfl)
  | valRejected h h' => exact (if_neg (by simp [h])).trans (by rw [h']; rfl)
  | valOk h h' => exact (if_neg (by simp [h])).trans (by rw [h']; rfl)
  | cbatNone h => exact if_pos h
  | cbatOk h => exact if_neg (by simp [h])
  | ccurNone h => exact if_pos h
  | ccurOk h => exact if_neg (by simp [h])
  | cmagiNone h => exact if_pos h
  | cmagiOk h => exact if_neg (by simp [h])
  | cpotNone k h => exact if_pos h
  | cpotBad k h h' => exact (if_neg (by simp [h])).trans (if_pos h')
  | cpotOk k h h' => exact (if_neg (by simp [h])).trans (if_neg (by simp [h']))
  | cmagvNone k h => exact if_pos h
  | cmagvBad k h h' => exact (if_neg (by simp [h])).trans (if_pos h')
  | cmagvOk k h h' => exact (if_neg (by simp [h])).trans (if_neg (by simp [h']))
  | crhoNone k h => exact if_pos h
  | crhoBad k h h' => exact (if_neg (by simp [h])).trans (if_pos h')
  | crhoOk k h h' => exact (if_neg (by simp [h])).trans (if_neg (by simp [h']))
  | callNone h => exact if_pos h
  | callOk h => exact if_neg (by simp [h])
  | _ => rfl

/-- Some path of the command's rule applies in every state. -/
theorem effect_exists (i : Instr) (s : State) (hi : i ≠ .reset) : ∃ c u, Effect s i c u := by
  have val : s.actValid = true → ∃ c u, Effect s .val c u := fun h => by
    cases hv : verdict s.rx s.actCh.toNat with
    | short => exact ⟨_, _, .valShort h hv⟩
    | rejected => exact ⟨_, _, .valRejected h hv⟩
    | valid => exact ⟨_, _, .valOk h hv⟩
  have chan : ∀ (k : BitVec 8) (j : Instr), (channelInFrame s k = false → ∃ c u, Effect s j c u) →
      (channelInFrame s k = true → ∃ c u, Effect s j c u) → ∃ c u, Effect s j c u := fun k j h0 h1 => by
    cases h : channelInFrame s k with
    | false => exact h0 h
    | true => exact h1 h
  cases i with
  | nop => exact ⟨_, _, .nop⟩
  | reset => exact absurd rfl hi
  | errclr => exact ⟨_, _, .errclr⟩
  | setv imm => exact ⟨_, _, .setv imm⟩
  | setfl imm => exact ⟨_, _, .setfl imm⟩
  | setfh imm => exact ⟨_, _, .setfh imm⟩
  | setimp imm => exact ⟨_, _, .setimp imm⟩
  | setch imm => exact ⟨_, _, .setch imm⟩
  | setint imm => exact ⟨_, _, .setint imm⟩
  | enc =>
    cases h : stagedCheck s with
    | none => exact ⟨_, _, .encFail h⟩
    | some p => exact ⟨_, _, .encOk p.1 p.2 h⟩
  | ackb b => exact ⟨_, _, .ackb b⟩
  | ackclr => exact ⟨_, _, .ackclr⟩
  | vack =>
    cases h : s.cfgValid with
    | false => exact ⟨_, _, .vackNone h⟩
    | true =>
      cases h' : ackMatch s with
      | false => exact ⟨_, _, .vackBad h h'⟩
      | true => exact ⟨_, _, .vackOk h h'⟩
  | rxb b =>
    by_cases h : s.rx.length = s.rxCap
    · exact ⟨_, _, .rxbFull b h⟩
    · exact ⟨_, _, .rxbOk b h⟩
  | rxclr => exact ⟨_, _, .rxclr⟩
  | rxdrop imm => exact ⟨_, _, .rxdrop imm⟩
  | val =>
    cases h : s.actValid with
    | false => exact ⟨_, _, .valNone h⟩
    | true => exact val h
  | cbat =>
    cases h : s.frameValid with
    | false => exact ⟨_, _, .cbatNone h⟩
    | true => exact ⟨_, _, .cbatOk h⟩
  | ccur =>
    cases h : s.frameValid with
    | false => exact ⟨_, _, .ccurNone h⟩
    | true => exact ⟨_, _, .ccurOk h⟩
  | cmagi =>
    cases h : s.frameValid with
    | false => exact ⟨_, _, .cmagiNone h⟩
    | true => exact ⟨_, _, .cmagiOk h⟩
  | cpot k =>
    cases h : s.frameValid with
    | false => exact ⟨_, _, .cpotNone k h⟩
    | true => exact chan k _ (fun h' => ⟨_, _, .cpotBad k h h'⟩) (fun h' => ⟨_, _, .cpotOk k h h'⟩)
  | cmagv k =>
    cases h : s.frameValid with
    | false => exact ⟨_, _, .cmagvNone k h⟩
    | true => exact chan k _ (fun h' => ⟨_, _, .cmagvBad k h h'⟩) (fun h' => ⟨_, _, .cmagvOk k h h'⟩)
  | crho k =>
    cases h : s.frameValid with
    | false => exact ⟨_, _, .crhoNone k h⟩
    | true => exact chan k _ (fun h' => ⟨_, _, .crhoBad k h h'⟩) (fun h' => ⟨_, _, .crhoOk k h h'⟩)
  | call =>
    cases h : s.frameValid with
    | false => exact ⟨_, _, .callNone h⟩
    | true => exact ⟨_, _, .callOk h⟩

/-- The inversion of a command: what it made of the state, and the result `finish` recorded. -/
theorem exec_next_effect {i : Instr} {s t : State} (h : exec i s = .next t) (hi : i ≠ .reset) :
    ∃ c u, Effect s i c u ∧ t = finish (opcodeOf i) c u := by
  obtain ⟨c, u, he⟩ := effect_exists i s hi
  rw [exec_of_effect he] at h
  injection h with h
  exact ⟨c, u, he, h.symm⟩

end Sys2Proof.Machine
end

