-- ==== Sys2Proof/Laws/PerInstr.lean ====
section
/-! SUPPORT. Families of facts about the instructions as syntax, one lemma for each constructor of `Instr`. -/

/-- R84, R86: the bits of an encoded command that its format fixes: `(w & mask) == op`, with its row's op and mask. -/
def Sys2Proof.Laws.FixedBits.Statement (i : Sys2Proof.Instr) : Prop :=
  ∃ row ∈ Sys2Proof.opcodeMap, row.op = Sys2Proof.opField (Sys2Proof.encode i) ∧
    Sys2Proof.encode i &&& Sys2Proof.formatMask row.format = row.op.setWidth 32

namespace Sys2Proof.Laws.FixedBits

/-- Format N words are constants. -/
theorem ofN (i : Instr) (m : String) (op : Byte) (he : encode i = encodeN op) (hr : ⟨m, op, .N⟩ ∈ opcodeMap)
    (ho : opField (encodeN op) = op) (hm : encodeN op &&& formatMask .N = op.setWidth 32) : Statement i :=
  ⟨_, hr, by rw [he, ho], by rw [he]; exact hm⟩

/-- The mask of formats B and K clears the operand. -/
theorem maskBK (arg op : Byte) : encodeBK op arg &&& formatMask .B = op.setWidth 32 := by
  apply BitVec.eq_of_getLsbD_eq
  intro j hj
  simp only [encodeBK, BitVec.getLsbD_and, wordOf_getLsbD, BitVec.getLsbD_setWidth, formatMask]
  by_cases h1 : j < 8
  · interval_cases j <;> simp
  · by_cases h2 : j < 16
    · interval_cases j <;> simp
    · simp [h1, h2, BitVec.getLsbD_of_ge op j (by omega)]

/-- The mask of format I clears the operand. -/
theorem maskI (op : Byte) (imm : BitVec 16) : encodeI op imm &&& formatMask .I = op.setWidth 32 := by
  apply BitVec.eq_of_getLsbD_eq
  intro j hj
  simp only [encodeI, BitVec.getLsbD_and, wordOf_getLsbD, BitVec.getLsbD_setWidth, formatMask]
  by_cases h1 : j < 8
  · interval_cases j <;> simp
  · by_cases h2 : j < 16
    · simp [h1, h2, BitVec.getLsbD_of_ge op j (by omega)]
    · interval_cases j <;> simp

theorem ofBK (i : Instr) (m : String) (op arg : Byte) (f : Format) (hf : formatMask f = formatMask .B)
    (he : encode i = encodeBK op arg) (hr : ⟨m, op, f⟩ ∈ opcodeMap) : Statement i :=
  ⟨_, hr, by rw [he]; exact (opField_wordOf _ _ _).symm, by rw [he, hf]; exact maskBK arg op⟩

theorem ofI (i : Instr) (m : String) (op : Byte) (imm : BitVec 16)
    (he : encode i = encodeI op imm) (hr : ⟨m, op, .I⟩ ∈ opcodeMap) : Statement i :=
  ⟨_, hr, by rw [he]; exact (opField_wordOf _ _ _).symm, by rw [he]; exact maskI op imm⟩

theorem nop : Statement .nop := ofN _ "NOP" _ rfl (by decide) rfl rfl
theorem reset : Statement .reset := ofN _ "RESET" _ rfl (by decide) rfl rfl
theorem errclr : Statement .errclr := ofN _ "ERRCLR" _ rfl (by decide) rfl rfl
theorem setv (imm : BitVec 16) : Statement (.setv imm) := ofI _ "SETV" _ imm rfl (by decide)
theorem setfl (imm : BitVec 16) : Statement (.setfl imm) := ofI _ "SETFL" _ imm rfl (by decide)
theorem setfh (imm : BitVec 16) : Statement (.setfh imm) := ofI _ "SETFH" _ imm rfl (by decide)
theorem setimp (imm : BitVec 16) : Statement (.setimp imm) := ofI _ "SETIMP" _ imm rfl (by decide)
theorem setch (imm : BitVec 16) : Statement (.setch imm) := ofI _ "SETCH" _ imm rfl (by decide)
theorem setint (imm : BitVec 16) : Statement (.setint imm) := ofI _ "SETINT" _ imm rfl (by decide)
theorem enc : Statement .enc := ofN _ "ENC" _ rfl (by decide) rfl rfl
theorem ackb (b : Byte) : Statement (.ackb b) := ofBK _ "ACKB" _ b .B rfl rfl (by decide)
theorem ackclr : Statement .ackclr := ofN _ "ACKCLR" _ rfl (by decide) rfl rfl
theorem vack : Statement .vack := ofN _ "VACK" _ rfl (by decide) rfl rfl
theorem rxb (b : Byte) : Statement (.rxb b) := ofBK _ "RXB" _ b .B rfl rfl (by decide)
theorem rxclr : Statement .rxclr := ofN _ "RXCLR" _ rfl (by decide) rfl rfl
theorem rxdrop (imm : BitVec 16) : Statement (.rxdrop imm) := ofI _ "RXDROP" _ imm rfl (by decide)
theorem val : Statement .val := ofN _ "VAL" _ rfl (by decide) rfl rfl
theorem cbat : Statement .cbat := ofN _ "CBAT" _ rfl (by decide) rfl rfl
theorem ccur : Statement .ccur := ofN _ "CCUR" _ rfl (by decide) rfl rfl
theorem cmagi : Statement .cmagi := ofN _ "CMAGI" _ rfl (by decide) rfl rfl
theorem cpot (k : BitVec 8) : Statement (.cpot k) := ofBK _ "CPOT" _ k .K rfl rfl (by decide)
theorem cmagv (k : BitVec 8) : Statement (.cmagv k) := ofBK _ "CMAGV" _ k .K rfl rfl (by decide)
theorem crho (k : BitVec 8) : Statement (.crho k) := ofBK _ "CRHO" _ k .K rfl rfl (by decide)
theorem call : Statement .call := ofN _ "CALL" _ rfl (by decide) rfl rfl

end Sys2Proof.Laws.FixedBits
end

