-- ==== Sys2Proof/Laws/ReadPort.lean ====
section
/-! SUPPORT. What the read port answers at each row of the read map (R39), one lemma a row. -/

namespace Sys2Proof.Machine

theorem readPort_0x0000 (s : State) : readPort s 0x0000#16 =
    zextWord s.status := rfl
theorem readPort_0x0001 (s : State) : readPort s 0x0001#16 =
    zextWord s.errflags := rfl
theorem readPort_0x0002 (s : State) : readPort s 0x0002#16 =
    zextWord s.cfgVolt := rfl
theorem readPort_0x0003 (s : State) : readPort s 0x0003#16 =
    zextWord s.cfgFreq := rfl
theorem readPort_0x0004 (s : State) : readPort s 0x0004#16 =
    zextWord s.cfgImp := rfl
theorem readPort_0x0005 (s : State) : readPort s 0x0005#16 =
    zextWord s.cfgCh := rfl
theorem readPort_0x0006 (s : State) : readPort s 0x0006#16 =
    zextWord s.cfgInt := rfl
theorem readPort_0x0008 (s : State) : readPort s 0x0008#16 =
    bitWord s.cfgValid ||| bitWord s.ackOk <<< 1 ||| bitWord s.actValid <<< 2 ||| bitWord s.frameValid <<< 3 := rfl
theorem readPort_0x0009 (s : State) : readPort s 0x0009#16 =
    zextWord s.ux := rfl
theorem readPort_0x000A (s : State) : readPort s 0x000A#16 =
    zextWord s.fx := rfl
theorem readPort_0x000B (s : State) : readPort s 0x000B#16 =
    zextWord s.encCh := rfl
theorem readPort_0x000C (s : State) : readPort s 0x000C#16 =
    packedWord (s.cframe.toList.take 8) := rfl
theorem readPort_0x000D (s : State) : readPort s 0x000D#16 =
    packedWord (s.cframe.toList.drop 8) := rfl
theorem readPort_0x0010 (s : State) : readPort s 0x0010#16 =
    zextWord s.ackLen := rfl
theorem readPort_0x0011 (s : State) : readPort s 0x0011#16 =
    packedWord (s.ackbuf.toList.take 8) := rfl
theorem readPort_0x0012 (s : State) : readPort s 0x0012#16 =
    packedWord (s.ackbuf.toList.drop 8) := rfl
theorem readPort_0x0013 (s : State) : readPort s 0x0013#16 =
    bitWord s.run ||| zextWord s.boardId <<< 1 := rfl
theorem readPort_0x0014 (s : State) : readPort s 0x0014#16 =
    zextWord s.actCh := rfl
theorem readPort_0x0015 (s : State) : readPort s 0x0015#16 =
    BitVec.ofNat 64 (reqLen s) := rfl
theorem readPort_0x0018 (s : State) : readPort s 0x0018#16 =
    BitVec.ofNat 64 s.rx.length := rfl
theorem readPort_0x0019 (s : State) : readPort s 0x0019#16 =
    BitVec.ofNat 64 s.rxCap := rfl
theorem readPort_0x001A (s : State) : readPort s 0x001A#16 =
    zextWord s.frameCount := rfl
theorem readPort_0x001B (s : State) : readPort s 0x001B#16 =
    zextWord s.rejectCount := rfl
theorem readPort_0x001C (s : State) : readPort s 0x001C#16 =
    zextWord s.ovfCount := rfl
theorem readPort_0x0020 (s : State) : readPort s 0x0020#16 =
    zextWord s.frameCh := rfl
theorem readPort_0x0021 (s : State) : readPort s 0x0021#16 =
    zextWord s.measCount := rfl
theorem readPort_0x0022 (s : State) : readPort s 0x0022#16 =
    zextWord s.recBatRaw := rfl
theorem readPort_0x0023 (s : State) : readPort s 0x0023#16 =
    zextWord s.emBatRaw := rfl
theorem readPort_0x0024 (s : State) : readPort s 0x0024#16 =
    sextWord s.iPRaw := rfl
theorem readPort_0x0025 (s : State) : readPort s 0x0025#16 =
    sextWord s.iQRaw := rfl
theorem readPort_0x0028 (s : State) : readPort s 0x0028#16 =
    zextWord s.cvtFlags := rfl
theorem readPort_0x0029 (s : State) : readPort s 0x0029#16 =
    zextWord s.recBatMv := rfl
theorem readPort_0x002A (s : State) : readPort s 0x002A#16 =
    zextWord s.emBatMv := rfl
theorem readPort_0x002B (s : State) : readPort s 0x002B#16 =
    sextWord s.iPMa := rfl
theorem readPort_0x002C (s : State) : readPort s 0x002C#16 =
    sextWord s.iQMa := rfl
theorem readPort_0x002D (s : State) : readPort s 0x002D#16 =
    zextWord s.iMag := rfl

/-- The channel pages 0x01..0x0F: word address 0x100·p + k. -/
theorem readPort_channel (s : State) {a : ReadAddr} (h1 : 0x100 ≤ a.toNat) (h2 : a.toNat < 0x1000) :
    readPort s a = channelPage s (a.toNat / 0x100) (a.toNat % 0x100) := by
  rw [readPort, if_neg (by omega), if_pos h2]

/-- The buffer window. -/
theorem readPort_buffer (s : State) {a : ReadAddr} (h : 0x1000 ≤ a.toNat) :
    readPort s a = zextWord (rxPeek s.rx (a.toNat - 0x1000)) := by
  rw [readPort, if_neg (by omega), if_neg (by omega)]

/-- A channel page at a channel index reads that channel's register. -/
theorem channelPage_of_lt (s : State) (p : Nat) {k : Nat} (h : k < 255) :
    channelPage s p k = channelWord s.channels[k] p := by
  rw [channelPage, if_pos h, channelAt_of_lt _ h]

/-- The read port sees nothing of the host's side. -/
theorem readPort_takeCommand (rest : List HostInput) (s : State) (a : ReadAddr) :
    readPort (takeCommand rest s) a = readPort s a := rfl

end Sys2Proof.Machine
end

