-- ==== Sys2Proof/Laws/Step.lean ====
section
/-! SUPPORT. The four cases of a step, and the inversion of a step that answers a next state. -/

namespace Sys2Proof.Machine

theorem step_none {s : State} (h : s.hostInputs = []) : step s = .next s := by
  simp only [step, h]

theorem step_command {s : State} {w : Word} {rest : List HostInput} (h : s.hostInputs = .command w :: rest) :
    step s = stepCommand w (takeCommand rest s) := by
  simp only [step, h]

theorem step_read {s : State} {a : ReadAddr} {rest : List HostInput} (h : s.hostInputs = .read a :: rest) :
    step s = .next (answerRead (readPort s a) (takeInput rest s)) := by
  simp only [step, h]

theorem step_resetInput {s : State} {rest : List HostInput} (h : s.hostInputs = .resetInput :: rest) :
    step s = .next (resetBlock (takeInput rest s)) := by
  simp only [step, h]

/-- Everything a step that answers a next state can have done. -/
theorem step_next_cases {s t : State} (h : step s = .next t) :
    (s.hostInputs = [] ∧ t = s) ∨
    (∃ w rest i, s.hostInputs = .command w :: rest ∧ decode w = some i ∧ exec i (takeCommand rest s) = .next t) ∨
    (∃ w rest, s.hostInputs = .command w :: rest ∧ decode w = none ∧
      t = illegalCommand w (takeCommand rest s)) ∨
    (∃ a rest, s.hostInputs = .read a :: rest ∧ t = answerRead (readPort s a) (takeInput rest s)) ∨
    (∃ rest, s.hostInputs = .resetInput :: rest ∧ t = resetBlock (takeInput rest s)) := by
  cases hi : s.hostInputs with
  | nil =>
    rw [step_none hi] at h
    injection h with h
    exact .inl ⟨rfl, h.symm⟩
  | cons x rest =>
    right
    cases x with
    | command w =>
      rw [step_command hi, stepCommand] at h
      split at h
      · rename_i i hd
        exact .inl ⟨w, rest, i, rfl, hd, h⟩
      · rename_i hd
        injection h with h
        exact .inr (.inl ⟨w, rest, rfl, hd, h.symm⟩)
    | read a =>
      rw [step_read hi] at h
      injection h with h
      exact .inr (.inr (.inl ⟨a, rest, rfl, h.symm⟩))
    | resetInput =>
      rw [step_resetInput hi] at h
      injection h with h
      exact .inr (.inr (.inr ⟨rest, rfl, h.symm⟩))

end Sys2Proof.Machine
end

