-- ==== Sys2Proof/Tests/Slice0.lean ====
section
/-! SUPPORT. The model's own tests: words and vectors of `95_test_vectors.md` (its id stands in each docstring), one step
each, and for every statement with hypotheses a state and operands that meet them (`witness_…`). -/

namespace Sys2Proof.Tests

open Sys2Proof Sys2Proof.Machine Sys2Proof.Claims

/-! Small states. -/

/-- The state a command leaves, and the state itself if the command stopped. -/
def after (i : Instr) (s : State) : State :=
  match exec i s with
  | .next t => t
  | .fault _ => s
  | .refused _ => s

/-- Every command leaves a next state, so `after` is that state. -/
theorem exec_after (i : Instr) (s : State) : exec i s = .next (after i s) := by
  by_cases hi : i = .reset
  · subst hi; rfl
  · obtain ⟨c, u, h⟩ := effect_exists i s hi
    simp [after, exec_of_effect h]

/-- The staged registers, all else at reset. -/
def staged (vc : BitVec 16) (fq : BitVec 32) (imp ch it : BitVec 16) : State :=
  { State.reset with cfgVolt := vc, cfgFreq := fq, cfgImp := imp, cfgCh := ch, cfgInt := it }

/-- E1's staged registers. -/
def stagedE1 : State := staged 10000#16 65536000#32 10#16 1#16 100#16

/-- E1's frame encoded, and `n` acknowledgement bytes collected. -/
def encodedE1 (n : BitVec 8) (reply : Vector Byte 11) : State :=
  { stagedE1 with
    cfgValid := true, ux := 23#8, fx := 536871#25, encCh := 1#8
    cframe := #v[0xAF, 0x00, 0x27, 0x62, 0x20, 0x00, 0x0A, 0x01, 0x64, 0x00]
    ackLen := n, ackbuf := reply }

/-- The device's reply to E1 with status byte `b`. -/
def replyE1 (b : Byte) : Vector Byte 11 := #v[0xAF, 0x00, 0x27, 0x62, 0x20, 0x00, 0x0A, 0x01, 0x64, 0x00, b]

/-- An active configuration of n channels with these bytes received. -/
def receiving (n : BitVec 8) (rx : List Byte) : State :=
  { State.reset with actValid := true, actCh := n, rx := rx }

/-- V-VAL-1's bytes. -/
def frame1 : List Byte := [0x81, 0x00, 0xFF, 0x7F, 0x80, 0x40, 0x85, 0x00, 0x00, 0x40, 0xFF, 0x7F, 0x7F, 0x7F]

/-- V-VAL-3's bytes. -/
def frame3 : List Byte :=
  [0x83, 0x00, 0x80, 0x00, 0xFF, 0x7F, 0xE8, 0x07, 0x00, 0x00, 0x80, 0x00, 0x00, 0x00,
   0xD0, 0x06, 0x03, 0x00, 0xA0, 0x1C, 0x01, 0x00]

/-- A frame of n channels extracted, every channel with the same raw codes. -/
def framed (n : BitVec 8) (vp vq ip iq : Int) : State :=
  { State.reset with
    frameValid := true, frameCh := n, iPRaw := BitVec.ofInt 28 ip, iQRaw := BitVec.ofInt 28 iq
    channels := Vector.replicate 255
      { Channel.reset with vPRaw := BitVec.ofInt 28 vp, vQRaw := BitVec.ofInt 28 vq } }

/-- The host's next stimulus, all else at reset. -/
def presenting (h : HostInput) : State := { State.reset with hostInputs := [h] }

/-! Ill-formed words: D-2 to D-6, D-8 to D-12 and D-14, and each format's reserved bits. -/

theorem test_illformed_formatN : wellFormedWord 0x00000100#32 = false ∧ wellFormedWord 0x00010018#32 = false ∧
    wellFormedWord 0x00010001#32 = false ∧ wellFormedWord 0x80000033#32 = false ∧
    wellFormedWord 0x0000804F#32 = false := by decide
theorem test_illformed_formatB : wellFormedWord 0x00FF0020#32 = false ∧ wellFormedWord 0x80000030#32 = false := by
  decide
theorem test_illformed_formatK : wellFormedWord 0x00FF0043#32 = false ∧ wellFormedWord 0x00010044#32 = false ∧
    wellFormedWord 0x80000045#32 = false := by decide
theorem test_illformed_formatI : wellFormedWord 0x0001FF32#32 = false ∧ wellFormedWord 0x00000110#32 = false := by
  decide
theorem test_illformed_op : wellFormedWord 0x000000FF#32 = false ∧ wellFormedWord 0x00000003#32 = false ∧
    wellFormedWord 0x00000050#32 = false ∧ wellFormedWord 0xFFFFFFFF#32 = false ∧
    wellFormedWord 0x00000046#32 = false := by decide
theorem test_illformed_words_do_not_decode : decode 0x00000100#32 = none ∧ decode 0x00FF0020#32 = none ∧
    decode 0x0001FF32#32 = none ∧ decode 0x00FF0043#32 = none ∧ decode 0x000000FF#32 = none := by decide
theorem test_table_word : decodeTableWord 32 0x27100010 = some (.setv 10000#16) ∧
    decodeTableWord 8 0x33 = some .val ∧ decodeTableWord 32 0x80000033 = none := by decide

/-! One word of each row, written out from R84's fields, and P1's and D's words. -/

theorem test_decode_control : decode 0x00000000#32 = some .nop ∧ decode 0x00000001#32 = some .reset ∧
    decode 0x00000002#32 = some .errclr := by decide
theorem test_decode_encoder : decode 0x27100010#32 = some (.setv 10000#16) ∧
    decode 0x12340011#32 = some (.setfl 0x1234#16) ∧ decode 0x03E80012#32 = some (.setfh 1000#16) ∧
    decode 0x000A0013#32 = some (.setimp 10#16) ∧ decode 0x00010014#32 = some (.setch 1#16) ∧
    decode 0x00640015#32 = some (.setint 100#16) ∧ decode 0x00000018#32 = some .enc := by decide
theorem test_decode_ack : decode 0x0000AF20#32 = some (.ackb 0xAF#8) ∧ decode 0x00000021#32 = some .ackclr ∧
    decode 0x00000022#32 = some .vack := by decide
theorem test_decode_validator : decode 0x00000130#32 = some (.rxb 1#8) ∧ decode 0x00000031#32 = some .rxclr ∧
    decode 0x001E0032#32 = some (.rxdrop 30#16) ∧ decode 0x00000033#32 = some .val := by decide
theorem test_decode_converter : decode 0x00000040#32 = some .cbat ∧ decode 0x00000041#32 = some .ccur ∧
    decode 0x00000042#32 = some .cmagi ∧ decode 0x00000143#32 = some (.cpot 1#8) ∧
    decode 0x0000FE44#32 = some (.cmagv 254#8) ∧ decode 0x0000FF45#32 = some (.crho 255#8) ∧
    decode 0x0000004F#32 = some .call := by decide
theorem test_encode : encode (.setv 10000#16) = 0x27100010#32 ∧ encode (.rxb 0x58#8) = 0x00005830#32 ∧
    encode (.cpot 255#8) = 0x0000FF43#32 ∧ encode .call = 0x0000004F#32 := by decide

/-! Assembler lines: R89's examples and errors, R90's expansions. -/

theorem test_assemble_setv : assembleText "SETV 10000 ; 100.00 V" = some [0x27100010#32] := by decide
theorem test_assemble_hex : assembleText "RXB 0x58" = some [0x00005830#32] := by decide
theorem test_assemble_config : assembleText "CONFIG 10000, 65536000, 10, 1, 100" =
    some [0x27100010#32, 0x00000011#32, 0x03E80012#32, 0x000A0013#32, 0x00010014#32, 0x00640015#32, 0x00000018#32] := by
  decide
theorem test_assemble_bytes : assembleText "ACKBS 0xAF, 0x00, 5" =
    some [0x0000AF20#32, 0x00000020#32, 0x00000520#32] := by decide
theorem test_operand_too_large : lineInstrs ⟨.setv, [65536]⟩ = none ∧ lineInstrs ⟨.rxb, [256]⟩ = none ∧
    lineInstrs ⟨.cpot, [256]⟩ = none ∧ lineInstrs ⟨.rxbs, [0, 256]⟩ = none ∧ lineInstrs ⟨.setf, [2 ^ 32]⟩ = none ∧
    lineInstrs ⟨.setfi, [65536]⟩ = none := by decide
theorem test_wrong_operand_count : lineInstrs ⟨.nop, [0]⟩ = none ∧ lineInstrs ⟨.setv, []⟩ = none ∧
    lineInstrs ⟨.config, [1655, 0, 0, 0]⟩ = none := by decide

/-! Arithmetic: R13, R14. -/

theorem test_rne : rne 7 2 = 4 ∧ rne 5 2 = 2 ∧ rne (-5) 2 = -2 ∧ rne (-7) 2 = -4 ∧ rne 8 3 = 3 := by decide
theorem test_rnsqrt : isqrt 15 = 3 ∧ isqrt 16 = 4 ∧ rnsqrt 9 4 = 2 ∧ rnsqrt 25 4 = 2 ∧ rnsqrt 2 1 = 1 := by
  decide

/-! Configuration encoder: §2. -/

/-- 2.1. -/
theorem test_uxOf : uxOf 1651 = 256 ∧ uxOf 1655 = 255 ∧ uxOf 1700 = 248 ∧ uxOf 3000 = 130 ∧ uxOf 10000 = 23 ∧
    uxOf 19651 = 0 := by decide
/-- 2.2. -/
theorem test_fxOf : fxOf 0 = 0 ∧ fxOf 1 = 0 ∧ fxOf 65536 = 537 ∧ fxOf 802816 = 6577 ∧ fxOf 4095934464 = 33553895 := by
  decide
theorem test_setv : (after (.setv 10000#16) State.reset).cfgVolt = 10000#16 ∧
    (after (.setv 10000#16) State.reset).status = 0x1000#16 := by decide
theorem test_setfl_keeps_high : (after (.setfl 0x1234#16) (staged 0 0xABCD5678#32 0 0 0)).cfgFreq = 0xABCD1234#32 := by
  decide
theorem test_setfh_keeps_low : (after (.setfh 0x1234#16) (staged 0 0xABCD5678#32 0 0 0)).cfgFreq = 0x12345678#32 := by
  decide
theorem test_setimp : (after (.setimp 10#16) State.reset).cfgImp = 10#16 ∧
    (after (.setimp 10#16) State.reset).status = 0x1300#16 := by decide
theorem test_setch : (after (.setch 1#16) State.reset).cfgCh = 1#16 ∧
    (after (.setch 1#16) State.reset).status = 0x1400#16 := by decide
theorem test_setint : (after (.setint 100#16) State.reset).cfgInt = 100#16 ∧
    (after (.setint 100#16) State.reset).status = 0x1500#16 := by decide
/-- E2. -/
theorem test_enc_largest : (after .enc (staged 1655 0xF4230000#32 127 255 16383)).cframe =
    #v[0xFF, 0x03, 0x67, 0x7B, 0x7F, 0x0F, 0x7F, 0x7F, 0x7F, 0x7F] := by decide
/-- E-F8: a failed ENC keeps the frame. -/
theorem test_enc_fails : (after .enc { encodedE1 0 (replyE1 0) with cfgInt := 16384#16 }).cfgValid = false ∧
    (after .enc { encodedE1 0 (replyE1 0) with cfgInt := 16384#16 }).status = 0x1801#16 ∧
    (after .enc { encodedE1 0 (replyE1 0) with cfgInt := 16384#16 }).cframe =
      #v[0xAF, 0x00, 0x27, 0x62, 0x20, 0x00, 0x0A, 0x01, 0x64, 0x00] := by decide

/-! Frame codec: §3. -/

/-- C-1, C-4, C-7 to C-10. -/
theorem test_decoders : g7 536871 1 = 0x62 ∧ decU14 [0xFF, 0xFF] 0 = 16383 ∧
    decS28 [0xFF, 0x7F, 0x7F, 0x3F] 0 = 134217727 ∧ decS28 [0x80, 0x00, 0x00, 0x40] 0 = -134217728 ∧
    decS28 [0xFF, 0x7F, 0x7F, 0x7F] 0 = -1 ∧ decS28 [0x85, 0x00, 0x00, 0x40] 0 = -134217723 := by decide
/-- C-12 to C-15. -/
theorem test_encField : encField 0 2 = [0x80, 0x00] ∧ encField 1 4 = [0x81, 0x00, 0x00, 0x00] ∧
    encField (-1) 4 = [0xFF, 0x7F, 0x7F, 0x7F] ∧ encField 134217727 4 = [0xFF, 0x7F, 0x7F, 0x3F] := by decide
/-- C-18. -/
theorem test_start : (List.range 30).filter (expectedTag · 2) = [0, 2, 4, 6, 10, 14, 18, 22, 26] := by decide

/-! Acknowledgement verifier: §4. -/

/-- A4's twelfth byte is counted and not stored. -/
theorem test_ackb_twelfth : (after (.ackb 0x77#8) (encodedE1 11 (replyE1 5))).ackLen = 12#8 ∧
    (after (.ackb 0x77#8) (encodedE1 11 (replyE1 5))).ackbuf = replyE1 5 := by decide
/-- A9: the length saturates. -/
theorem test_ackb_saturates : (after (.ackb 1#8) (encodedE1 255 (replyE1 5))).ackLen = 255#8 := by decide
theorem test_ackclr : (after .ackclr (encodedE1 11 (replyE1 5))).ackLen = 0#8 ∧
    (after .ackclr (encodedE1 11 (replyE1 5))).ackbuf[0] = 0#8 := by decide
/-- A1 and A2. -/
theorem test_vack_status : (after .vack (encodedE1 11 (replyE1 0x05))).run = true ∧
    (after .vack (encodedE1 11 (replyE1 0x05))).boardId = 2#6 ∧
    (after .vack (encodedE1 11 (replyE1 0x05))).actCh = 1#8 ∧
    (after .vack (encodedE1 11 (replyE1 0xFF))).boardId = 63#6 := by decide
/-- A3 and A6. -/
theorem test_vack_mismatch : (after .vack (encodedE1 10 (replyE1 0))).status = 0x2202#16 ∧
    (after .vack (encodedE1 11 ((replyE1 5).set 0 0x2F#8))).status = 0x2202#16 := by decide

/-! Reception buffer and validator: §5. -/

theorem test_rxb : (after (.rxb 1#8) (receiving 0 [0x81])).rx = [0x81, 0x01] ∧
    (after (.rxb 1#8) (receiving 0 [0x81])).status = 0x3000#16 := by decide
/-- V-O1. -/
theorem test_rxb_full : (after (.rxb 0x11#8)
      { State.reset with rxCap := 2054, rx := List.replicate 2054 0x80#8 }).status = 0x3008#16 ∧
    (after (.rxb 0x11#8) { State.reset with rxCap := 2054, rx := List.replicate 2054 0x80#8 }).ovfCount = 1#32 := by
  decide +kernel
theorem test_rxclr : (after .rxclr (receiving 1 frame3)).rx = [] ∧
    (after .rxclr (receiving 1 frame3)).status = 0x3100#16 := by decide
/-- V-D1 and V-D2. -/
theorem test_rxdrop : (after (.rxdrop 1#16) (receiving 0 [1, 2, 3, 4])).rx = [2, 3, 4] ∧
    (after (.rxdrop 65535#16) (receiving 0 [1, 2, 3, 4, 5])).rx = [] := by decide
/-- V-VAL-1. -/
theorem test_val_fields : (after .val (receiving 0 frame1)).measCount = 1#14 ∧
    (after .val (receiving 0 frame1)).emBatRaw = 8192#14 ∧
    (after .val (receiving 0 frame1)).iPRaw.toInt = -134217723 ∧
    (after .val (receiving 0 frame1)).iQRaw.toInt = -1 ∧ (after .val (receiving 0 frame1)).rx = frame1 := by
  decide
/-- V-VAL-3 with V-L1's trailing bytes, V-S1, and V-T1 at the last field's first byte. -/
theorem test_val_channels : (after .val (receiving 1 (frame3 ++ [0, 0, 0]))).channels[0].vPRaw = 50000#28 ∧
    (after .val (receiving 1 (frame3 ++ [0, 0, 0]))).channels[0].vQRaw = 20000#28 ∧
    (after .val (receiving 2 frame3)).status = 0x3304#16 ∧
    (after .val (receiving 1 (frame3.set 18 0x20))).status = 0x3305#16 := by decide

/-! Converter: §6. -/

/-- K-B2 to K-B4. -/
theorem test_cbat : (after .cbat { framed 0 0 0 0 0 with recBatRaw := 1, emBatRaw := 8192 }).recBatMv = 73204#32 ∧
    (after .cbat { framed 0 0 0 0 0 with recBatRaw := 1, emBatRaw := 8192 }).emBatMv = 599691002#32 ∧
    batteryMv 16383 = 1199308800#32 := by decide
/-- K-I5, K-I7 and K-I9. -/
theorem test_ccur : (after .ccur (framed 0 0 0 704 (-704))).iPMa.toInt = 7812 ∧
    (after .ccur (framed 0 0 0 704 (-704))).iQMa.toInt = -7812 ∧ (currentMa 2112).toInt = 23438 ∧
    (currentMa 0x8000000#28).toInt = -1489454545 := by decide
/-- K-M2, K-M4 and K-M7. -/
theorem test_cmagi : (after .cmagi (framed 0 0 0 3 4)).iMag = 55#32 ∧ (after .cmagi (framed 0 0 0 704 0)).iMag = 7812#32 ∧
    (after .cmagi (framed 0 0 0 (-2 ^ 27) (-2 ^ 27))).iMag = 2106406819#32 := by decide
/-- K-P1 and K-P2; K-C1. -/
theorem test_cpot : (after (.cpot 1#8) (framed 2 (-2 ^ 27) (2 ^ 27 - 1) 0 0)).channels[1].vPMv.toInt = -83886080000 ∧
    (after (.cpot 1#8) (framed 2 (-2 ^ 27) (2 ^ 27 - 1) 0 0)).channels[1].vQMv.toInt = 83886079375 ∧
    (after (.cpot 1#8) (framed 2 (-2 ^ 27) (2 ^ 27 - 1) 0 0)).channels[0].vPMv = 0#40 ∧
    (after (.cpot 255#8) (framed 255 0 0 0 0)).status = 0x4307#16 := by decide
/-- K-V3 and K-V4. -/
theorem test_cmagv : (after (.cmagv 0#8) (framed 1 1 1 0 0)).channels[0].vMag = 884#40 ∧
    (after (.cmagv 0#8) (framed 1 (-2 ^ 27) (-2 ^ 27) 0 0)).channels[0].vMag = 118632832030#40 := by decide
/-- K-R5 and K-R6. -/
theorem test_crho : (after (.crho 0#8) (framed 1 5 5 3 4)).channels[0].rhoP.toInt = 10092544 ∧
    (after (.crho 0#8) (framed 1 5 5 3 4)).channels[0].rhoQ.toInt = -1441792 ∧
    (after (.crho 0#8) (framed 1 1 0 262144 0)).channels[0].rhoP.toInt = 28 := by decide
/-- K-R12. -/
theorem test_crho_undefined : (after (.crho 0#8) (framed 1 7 7 0 0)).status = 0x4509#16 ∧
    (after (.crho 0#8) (framed 1 7 7 0 0)).channels[0].flags = 0b1100#4 := by decide
/-- V-VAL-2's channel 0. -/
theorem test_call : (after .call (framed 1 123456 (-654321) 590 (-590))).channels[0].rhoQ.toInt = -3243207246 ∧
    (after .call (framed 1 123456 (-654321) 590 (-590))).channels[0].vMag = 416166168#40 ∧
    (after .call (framed 1 123456 (-654321) 590 (-590))).iMag = 9259#32 ∧
    (after .call (framed 1 123456 (-654321) 590 (-590))).status = 0x4F00#16 := by decide
/-- K-C3, and V-VAL-4's CALL. -/
theorem test_call_codes : (after .call (framed 0 0 0 0 0)).status = 0x4F00#16 ∧
    (after .call (framed 1 7 7 0 0)).status = 0x4F09#16 ∧
    (after .call (framed 1 7 7 0 0)).channels[0].flags = 0b1111#4 := by decide

/-! Decode and control: §7; and the ports. -/

/-- D-16. -/
theorem test_nop : (after .nop { State.reset with status := 0x3304#16, errflags := 0x0010#16 }).status = 0x0000#16 ∧
    (after .nop { State.reset with status := 0x3304#16, errflags := 0x0010#16 }).errflags = 0x0010#16 := by
  decide
/-- D-15. -/
theorem test_errclr : (after .errclr { State.reset with errflags := 0x0048#16 }).errflags = 0#16 ∧
    (after .errclr { State.reset with errflags := 0x0048#16 }).status = 0x0200#16 := by decide
/-- D-14's RESET. -/
theorem test_reset : (after .reset { stagedE1 with status := 0xFF0A#16, errflags := 0x0400#16 }).status = 0#16 ∧
    (after .reset { stagedE1 with status := 0xFF0A#16, errflags := 0x0400#16 }).cfgVolt = 0#16 := by decide
/-- P1's reads of CFRAME, and its words 0x0008 and 0x0015. -/
theorem test_read_cframe : readPort (encodedE1 0 (replyE1 0)) 0x000C#16 = 0x010A0020622700AF#64 ∧
    readPort (encodedE1 0 (replyE1 0)) 0x000D#16 = 0x64#64 ∧
    readPort (after .vack (encodedE1 11 (replyE1 5))) 0x0008#16 = 0x7#64 ∧
    readPort (after .vack (encodedE1 11 (replyE1 5))) 0x0015#16 = 22#64 := by decide
/-- R38: a signed register reads sign-extended; R65: an unlisted address reads 0. -/
theorem test_read_signed : readPort (framed 0 0 0 (-1) 0) 0x0024#16 = 0xFFFFFFFFFFFFFFFF#64 ∧
    readPort (framed 0 (-2) 0 (-1) 0) 0x0100#16 = 0xFFFFFFFFFFFFFFFE#64 ∧
    readPort (framed 0 (-2) 0 (-1) 0) 0x01FF#16 = 0#64 := by decide
/-- The step runs the word placed for it. -/
theorem test_step_runs_word : step (State.reset.withFetchWord 32 0x27100010) =
    exec (.setv 10000#16) { State.reset with hostPc := 1 } := rfl

/-! For each statement with hypotheses, a state and operands that meet them: one witness for each clause, at the ends
of its ranges. -/

/-! Encodings, the step and the ports. -/

theorem witness_PseudoInstructionsExpand : (65535 ≤ 65535 ∧ ¬ 65536 ≤ 65535 ∧ 255 ≤ 255 ∧ ¬ 256 ≤ 255) ∧
    ([0xFF#8] : List Byte) ≠ [] := by decide
theorem witness_StepRunsDecodedCommand : (presenting (.command 0xFFFF0015#32)).hostInputs = [.command 0xFFFF0015#32] ∧
    decode 0xFFFF0015#32 = some (.setint 0xFFFF#16) := by decide
theorem witness_IllegalWordAnswersIllegalCmd :
    (presenting (.command 0x00010001#32)).hostInputs = [.command 0x00010001#32] ∧
      wellFormedWord 0x00010001#32 = false := by decide
theorem witness_ReadHasNoSideEffect : (presenting (.read 0xFFFF#16)).hostInputs = [.read 0xFFFF#16] := rfl
theorem witness_IdleBlockHoldsItsState : stagedE1.hostInputs = [] := rfl
theorem witness_HostIndexAdvancesByOne :
    (presenting (.command 0xFFFFFFFF#32)).hostInputs = [.command 0xFFFFFFFF#32] := rfl
theorem witness_ResetClearsEveryRegister :
    { stagedE1 with hostInputs := [.resetInput] }.hostInputs = [.resetInput] ∧ (0xFFFF#16 : ReadAddr) ≠ 0x0019#16 := by
  decide

/-- A state with a nonzero code, a set flag and a partly filled buffer meets the bounds. -/
theorem witness_InvBounds : InvBounds { receiving 1 frame3 with status := 0x330A#16, errflags := 0x07FE#16 } :=
  ⟨by decide, by decide, by decide, by decide⟩
/-- A full buffer of the smallest capacity meets them. -/
theorem witness_InvBounds_full :
    InvBounds { State.reset with rxCap := 2054, rx := List.replicate 2054 0x80#8, errflags := 0x0100#16 } :=
  ⟨by decide, Nat.le_of_eq List.length_replicate, by decide, by decide⟩
/-- So does one of the largest. -/
theorem witness_InvBounds_largest :
    InvBounds { State.reset with rxCap := 61440, rx := List.replicate 61440 0x80#8 } :=
  ⟨by decide, Nat.le_of_eq List.length_replicate, by decide, by decide⟩
theorem witness_ReadMapRows_windows : (0 : Fin 255).val < 255 ∧ (254 : Fin 255).val = 254 ∧
    (0 : Fin 61440).val < (receiving 1 frame3).rx.length ∧
    ¬ (61439 : Fin 61440).val < (receiving 1 frame3).rx.length := by decide

theorem witness_UnlistedAddressesReadZero : ∀ a ∈ [0x0007#16, 0x0016#16, 0x00FF#16, 0x01FF#16, 0x08FF#16, 0x0900#16, 0x0FFF#16],
    a.toNat < 0x1000 ∧ ¬ ListedBelowBuffer a.toNat := by
  intro a ha
  fin_cases ha <;> refine ⟨by decide, ?_⟩ <;> unfold ListedBelowBuffer <;> simp <;> omega
theorem witness_UnlistedAddressesReadZero_buffer :
    0x1000 + (receiving 1 frame3).rx.length ≤ (0x1016#16 : ReadAddr).toNat ∧
      0x1000 + State.reset.rx.length ≤ (0x1000#16 : ReadAddr).toNat := by decide
theorem witness_ReadPortShowsTheWholeState : ∀ a : ReadAddr,
    readPort (receiving 1 frame3) a = readPort { receiving 1 frame3 with hostPc := 7 } a := fun _ => rfl

/-! Result codes and whole-machine rules. -/

theorem witness_EveryCommandRecordsItsResult : ∀ s : State,
    exec .errclr s = .next (after .errclr s) ∧ Instr.errclr ≠ .reset ∧
    exec (.crho 254#8) s = .next (after (.crho 254#8) s) ∧ Instr.crho 254#8 ≠ .reset ∧
    exec .reset s = .next (after .reset s) :=
  fun s => ⟨exec_after _ s, by decide, exec_after _ s, by decide, exec_after _ s⟩
theorem witness_ErrorFlagsAreSticky_kept : step { presenting (.command 0#32) with errflags := 0x07FE#16 } =
      .next (after .nop { State.reset with hostPc := 1, errflags := 0x07FE#16 }) ∧
    (∀ rest, { presenting (.command 0#32) with errflags := 0x07FE#16 }.hostInputs ≠ .command 0x00000001#32 :: rest ∧
      { presenting (.command 0#32) with errflags := 0x07FE#16 }.hostInputs ≠ .command 0x00000002#32 :: rest ∧
      { presenting (.command 0#32) with errflags := 0x07FE#16 }.hostInputs ≠ .resetInput :: rest) ∧
    (0x07FE#16).getLsbD 10 = true ∧ (0x07FE#16).getLsbD 1 = true := by
  refine ⟨rfl, fun rest => ⟨?_, ?_, ?_⟩, rfl, rfl⟩ <;> simp [presenting]
theorem witness_ErrorFlagsAreSticky_raised : step (presenting (.command 0xFFFFFFFF#32)) =
      .next (illegalCommand 0xFFFFFFFF#32 { State.reset with hostPc := 1 }) ∧
    statusCode (illegalCommand 0xFFFFFFFF#32 { State.reset with hostPc := 1 }) ≠ 0#8 ∧
    (presenting (.command 0xFFFFFFFF#32)).errflags &&& 0xF801#16 = 0#16 := ⟨rfl, by decide, by decide⟩
theorem witness_BufferChangedOnlyByBufferCommands : (after (.rxb 1#8) State.reset).rx ≠ State.reset.rx ∧
    (after .rxclr (receiving 1 frame3)).rx ≠ (receiving 1 frame3).rx ∧
    (after .reset (receiving 1 frame3)).rx ≠ (receiving 1 frame3).rx := by decide
theorem witness_SessionWrittenOnlyByItsCommands : Instr.rxclr ≠ .reset ∧ Instr.rxclr ≠ .vack ∧ Instr.rxclr ≠ .enc ∧
    Instr.rxclr ≠ .ackclr ∧ (∀ b, Instr.rxclr ≠ .ackb b) ∧
    exec .rxclr stagedE1 = .next (after .rxclr stagedE1) :=
  ⟨by decide, by decide, by decide, by decide, by simp, exec_after _ _⟩
theorem witness_EncoderOutputsWrittenOnlyByEnc : exec .enc State.reset = .next (after .enc State.reset) ∧
    statusCode (after .enc State.reset) ≠ 0#8 := ⟨exec_after _ _, by decide⟩
theorem witness_CountersCountTheirEvents : statusCode (after .val (receiving 0 frame1)) = 0#8 ∧
    statusCode (after .val (receiving 1 (frame3.set 0 0x03))) = 5#8 ∧
    statusCode (after (.rxb 0#8) { State.reset with rxCap := 2054, rx := List.replicate 2054 0x80#8 }) = 8#8 := by
  decide +kernel
theorem witness_RawFieldsWrittenOnlyByVal : ¬ (Instr.val = .val ∧ statusCode (after .val (receiving 2 frame3)) = 0#8) ∧
    Instr.val ≠ .reset := by decide
theorem witness_ConvertedRegistersWrittenOnlyByTheirCommands :
    Instr.cpot 254#8 ≠ .reset ∧ Instr.cpot 254#8 ≠ .call ∧ Instr.cpot 254#8 ≠ .cbat ∧ Instr.cpot 254#8 ≠ .ccur ∧
    Instr.cpot 254#8 ≠ .cmagi ∧ Instr.cpot 254#8 ≠ .cpot 253#8 ∧
    exec (.cpot 254#8) (framed 255 1 1 1 1) = .next (after (.cpot 254#8) (framed 255 1 1 1 1)) :=
  ⟨by decide, by decide, by decide, by decide, by decide, by decide, exec_after _ _⟩

/-! Invariants: states with something to keep. -/

theorem witness_BoundsKeptByEveryStep : ∃ t, step { receiving 1 frame3 with hostInputs := [.command 0x00000130#32] } = .next t ∧
    InvBounds { receiving 1 frame3 with hostInputs := [.command 0x00000130#32] } :=
  ⟨_, rfl, by decide, by decide, by decide, by decide⟩
/-- A1's state after VACK, and a SETV word to run. -/
theorem witness_SessionKeptByEveryStep :
    InvSession { encodedE1 11 (replyE1 5) with
      ackOk := true, actValid := true, actCh := 1#8, hostInputs := [.command 0x27100010#32] } where
  acknowledged := fun _ => ⟨rfl, rfl, rfl⟩
  framed := fun _ => ⟨10, 100, by decide, by decide, by decide⟩
  unwritten := by decide
theorem witness_SessionKeptByEveryStep_step : ∃ t, step { encodedE1 11 (replyE1 5) with
      ackOk := true, actValid := true, actCh := 1#8, hostInputs := [.command 0x27100010#32] } = .next t := ⟨_, rfl⟩
/-- A frame of one channel whose current magnitude and channel potential are converted. -/
def converted : State :=
  { framed 1 3 4 0 0 with
    cvtFlags := 0b111#3, hostInputs := [.command 0x00000045#32]
    channels := (Vector.replicate 255 { Channel.reset with vPRaw := 3#28, vQRaw := 4#28 }).set 0
      { Channel.reset with vPRaw := 3#28, vQRaw := 4#28, vPMv := 1875#40, vQMv := 2500#40, flags := 0b1101#4 } }
theorem converted_channel0 : ChannelCurrent converted.iPRaw.toInt converted.iQRaw.toInt converted.channels[0] :=
  ⟨by decide, by decide, by decide, by decide⟩
theorem witness_ConversionFlagsKeptByEveryStep : InvConverted converted where
  noFrame := by decide
  bat := fun _ => by decide
  cur := fun _ => by decide
  magi := fun _ => by decide
  inFrame := by
    intro k hk
    have : k.val ≠ 0 := by
      have : 1 ≤ k.val := hk
      omega
    simp [converted, this.symm, Channel.reset]
  current := by
    intro k
    by_cases h : k.val = 0
    · simp only [h]
      exact converted_channel0
    · simp only [converted, Vector.getElem_set, Ne.symm h, if_false, Vector.getElem_replicate]
      exact ⟨by decide, by decide, by decide, by decide⟩
theorem witness_ConversionFlagsKeptByEveryStep_step : ∃ t, step converted = .next t := ⟨_, rfl⟩

/-! ENC. -/

theorem witness_LegalConfig_low : LegalConfig (staged 1655 0 0 0 0) := by unfold LegalConfig; decide
theorem witness_LegalConfig_high : LegalConfig (staged 19651 0xF4230000#32 127 255 16383) := by
  unfold LegalConfig; decide
theorem witness_not_LegalConfig : ¬ LegalConfig (staged 1654 0 0 0 0) ∧ ¬ LegalConfig (staged 19652 0 0 0 0) ∧
    ¬ LegalConfig (staged 1655 0xF4230001#32 0 0 0) ∧ ¬ LegalConfig (staged 1655 0 128 0 0) ∧
    ¬ LegalConfig (staged 1655 0 0 256 0) ∧ ¬ LegalConfig (staged 1655 0 0 0 16384) := by
  unfold LegalConfig; decide
theorem witness_PostConversionChecksNeverFire : 1655 ≤ 1655 ∧ 1655 ≤ 19651 ∧ 19651 ≤ 19651 ∧
    4095934464 ≤ 4095934464 := by decide
theorem witness_CodesAreWithinHalfAStep : 1 ≤ 1 ∧ 1 ≤ 65535 := by decide
theorem witness_ConfigFrameLayout : exec .enc stagedE1 = .next (after .enc stagedE1) ∧
    statusCode (after .enc stagedE1) = 0#8 := ⟨exec_after _ _, by decide⟩
theorem witness_ChannelCounts128ApartShareAFrame :
    LegalConfig (staged 10000 65536000 10 0 100) ∧ (staged 10000 65536000 10 0 100).cfgCh.toNat < 128 ∧
    LegalConfig (staged 10000 65536000 10 127 100) ∧ (staged 10000 65536000 10 127 100).cfgCh.toNat < 128 := by
  unfold LegalConfig; decide

/-! Acknowledgement verifier. -/

theorem witness_AckBufferCommands : (10 : Fin 11).val = (encodedE1 10 (replyE1 0)).ackLen.toNat ∧
    ¬ (10 : Fin 11).val = (encodedE1 255 (replyE1 0)).ackLen.toNat := by decide
theorem witness_VackComparesTheEcho_none : stagedE1.cfgValid = false := rfl
theorem witness_VackComparesTheEcho_mismatch : (encodedE1 12 (replyE1 5)).cfgValid = true ∧
    ¬ Echoed (encodedE1 12 (replyE1 5)) ∧ ¬ Echoed (encodedE1 11 ((replyE1 5).set 9 1)) := by unfold Echoed; decide
theorem witness_VackComparesTheEcho_echoed : (encodedE1 11 (replyE1 0x85)).cfgValid = true ∧
    Echoed (encodedE1 11 (replyE1 0x85)) := by unfold Echoed; decide

/-! Reception buffer and validator. -/

theorem witness_ReceptionBufferCommands :
    { State.reset with rxCap := 2054, rx := List.replicate 2054 0x80#8 }.rx.length = 2054 ∧
    { State.reset with rxCap := 2054, rx := List.replicate 2053 0x80#8 }.rx.length ≠ 2054 :=
  ⟨List.length_replicate, fun h => absurd (List.length_replicate.symm.trans h) (by decide)⟩
theorem witness_RxbStoresOneByteAtTheEnd : (receiving 1 frame3).rx.length < (receiving 1 frame3).rxCap ∧
    0x0015#16 ≠ BitVec.ofNat 16 (0x1000 + (receiving 1 frame3).rx.length) ∧ 0x0015#16 ≠ (0x0018#16 : ReadAddr) := by
  decide
theorem witness_ValExtractsOrRejects_none : State.reset.actValid = false := rfl
theorem witness_ValExtractsOrRejects_short : (receiving 255 frame3).actValid = true ∧
    (receiving 255 frame3).rx.length < 14 + 8 * (receiving 255 frame3).actCh.toNat := by decide
theorem witness_ValExtractsOrRejects_rejected : (receiving 0 (frame1.set 13 0xFF)).actValid = true ∧
    14 + 8 * (receiving 0 (frame1.set 13 0xFF)).actCh.toNat ≤ (receiving 0 (frame1.set 13 0xFF)).rx.length ∧
    ¬ TagsRight (receiving 0 (frame1.set 13 0xFF)).rx (receiving 0 (frame1.set 13 0xFF)).actCh.toNat := by
  unfold TagsRight FieldStart; decide
theorem witness_ValExtractsOrRejects_valid : (receiving 1 frame3).actValid = true ∧
    14 + 8 * (receiving 1 frame3).actCh.toNat ≤ (receiving 1 frame3).rx.length ∧
    TagsRight (receiving 1 frame3).rx (receiving 1 frame3).actCh.toNat ∧
    (0 : Fin 255).val < (receiving 1 frame3).actCh.toNat ∧ (receiving 1 frame3).actCh.toNat ≤ (1 : Fin 255).val := by
  unfold TagsRight FieldStart; decide
theorem witness_FieldEncodingDecodes : (16383 < 2 ^ 14) ∧ ((-2 ^ 27 : Int) ≤ -2 ^ 27 ∧ (-2 ^ 27 : Int) < 2 ^ 27) ∧
    ((-2 ^ 27 : Int) ≤ 2 ^ 27 - 1 ∧ (2 ^ 27 - 1 : Int) < 2 ^ 27) := by decide

/-- V-VAL-3's fields. -/
def fields3 : FrameFields := ⟨3, 0, 16383, 1000, 0, [50000], [20000]⟩
theorem witness_ConformingFrameIsExtracted : (receiving 1 (frame3 ++ [0xFF])).actValid = true ∧
    fields3.Fits (receiving 1 (frame3 ++ [0xFF])).actCh.toNat ∧
    (receiving 1 (frame3 ++ [0xFF])).rx = encFrame fields3 ++ [0xFF] ∧
    (0 : Fin 255).val < (receiving 1 (frame3 ++ [0xFF])).actCh.toNat := by
  unfold FrameFields.Fits; decide
theorem witness_ConformingFrameIsExtracted_no_channel : (receiving 0 frame1).actValid = true ∧
    FrameFields.Fits ⟨1, 16383, 8192, 5 - 2 ^ 27, -1, [], []⟩ (receiving 0 frame1).actCh.toNat ∧
    (receiving 0 frame1).rx = encFrame ⟨1, 16383, 8192, 5 - 2 ^ 27, -1, [], []⟩ ++ [] := by
  unfold FrameFields.Fits; decide
theorem witness_OneWrongTagRejects : 14 + 8 * 1 ≤ frame3.length ∧ 0 < 14 + 8 * 1 ∧ 21 < 14 + 8 * 1 ∧
    verdict frame3 1 = .valid := by decide
theorem witness_ValidatorReadsOnlyTheFront : 14 + 8 * 1 ≤ frame3.length ∧ 14 + 8 * 0 ≤ frame1.length := by decide
theorem witness_RejectedFrontStaysRejected :
    exec .val (receiving 1 (frame3.set 0 0x03)) = .next (after .val (receiving 1 (frame3.set 0 0x03))) ∧
    statusCode (after .val (receiving 1 (frame3.set 0 0x03))) = 5#8 ∧
    exec (.rxb 0x80#8) (after .val (receiving 1 (frame3.set 0 0x03))) =
      .next (after (.rxb 0x80#8) (after .val (receiving 1 (frame3.set 0 0x03)))) :=
  ⟨exec_after _ _, by decide, exec_after _ _⟩
theorem witness_RepeatedValCountsAgain : exec .val (receiving 1 frame3) = .next (after .val (receiving 1 frame3)) ∧
    statusCode (after .val (receiving 1 frame3)) = 0#8 := ⟨exec_after _ _, by decide⟩
/-- Each of R175's states occurs. -/
theorem witness_BufferStatesOfTheSource : bufferState [] 0 = .empty ∧ bufferState frame3 2 = .accumulating ∧
    bufferState frame3 1 = .validCandidate ∧ bufferState (frame3.set 0 0x03) 1 = .rejectedCandidate := by
  decide

/-! Converter and arithmetic. -/

/-- CBAT, CCUR and CMAGI: with and without a frame. -/
theorem witness_frame_commands : State.reset.frameValid = false ∧ (framed 0 0 0 3 4).frameValid = true := ⟨rfl, rfl⟩
/-- CPOT, CMAGV and CRHO: the channel index at both ends of each range. -/
theorem witness_channel_commands : (framed 255 1 2 3 4).frameValid = true ∧
    (framed 255 1 2 3 4).frameCh.toNat ≤ (255#8).toNat ∧ (254#8).toNat < (framed 255 1 2 3 4).frameCh.toNat ∧
    (framed 0 1 2 3 4).frameCh.toNat ≤ (0#8).toNat ∧ (0#8).toNat < (framed 1 1 2 3 4).frameCh.toNat ∧
    (254 : Fin 255).val = (254#8).toNat ∧ (0 : Fin 255).val ≠ (254#8).toNat := by decide
/-- CRHO and CALL: both currents zero, and only one of them. -/
theorem witness_currents : ((framed 1 1 2 0 0).iPRaw = 0#28 ∧ (framed 1 1 2 0 0).iQRaw = 0#28) ∧
    ¬ ((framed 1 1 2 0 (-1)).iPRaw = 0#28 ∧ (framed 1 1 2 0 (-1)).iQRaw = 0#28) := by decide
theorem witness_CallIsItsCommandsInOrder :
    (0 < (framed 1 1 2 0 0).frameCh.toNat ∧ (framed 1 1 2 0 0).iPRaw = 0#28 ∧ (framed 1 1 2 0 0).iQRaw = 0#28) ∧
    ¬ (0 < (framed 0 1 2 0 0).frameCh.toNat ∧ (framed 0 1 2 0 0).iPRaw = 0#28 ∧ (framed 0 1 2 0 0).iQRaw = 0#28) ∧
    (254 : Fin 255).val < (framed 255 1 2 0 0).frameCh.toNat := by decide
theorem witness_RegistersAreTheRoundedRealQuantities : ¬ ((0#28 : BitVec 28) = 0#28 ∧ (0x8000000#28 : BitVec 28) = 0#28) := by
  decide
theorem witness_ConversionsRepeatAndCommute : isConversion (.crho 0#8) = true ∧ isConversion .call = true ∧
    exec (.crho 0#8) (framed 1 1 2 3 4) = .next (after (.crho 0#8) (framed 1 1 2 3 4)) ∧
    exec .call (after (.crho 0#8) (framed 1 1 2 3 4)) = .next (after .call (after (.crho 0#8) (framed 1 1 2 3 4))) ∧
    exec .call (framed 1 1 2 3 4) = .next (after .call (framed 1 1 2 3 4)) ∧
    exec (.crho 0#8) (after .call (framed 1 1 2 3 4)) =
      .next (after (.crho 0#8) (after .call (framed 1 1 2 3 4))) :=
  ⟨rfl, rfl, exec_after _ _, exec_after _ _, exec_after _ _, exec_after _ _⟩
/-- A tie: 5/2. -/
theorem witness_RoundingIsToNearestEven : (0 : Int) < 2 ∧ |((5 : Int) : ℚ) / (2 : Int) - rne 5 2| = 1 / 2 := by
  rw [show rne 5 2 = 2 by decide]
  norm_num
/-- Ties of RNSQRT from above and from below: sqrt(25/4) and sqrt(9/4). -/
theorem witness_SquareRootsAreNearest : 0 < 4 ∧ 4 * 25 = 4 * (2 * rnsqrt 25 4 + 1) ^ 2 ∧
    (0 < rnsqrt 9 4 ∧ 4 * 9 = 4 * (2 * rnsqrt 9 4 - 1) ^ 2) := by decide

end Sys2Proof.Tests
end

section
/-! PROOFS. The step on a command word (R16) and the bounds every step keeps (R8, R23, R28, R250). -/

open Sys2Proof Sys2Proof.Machine

namespace Sys2Proof.Machine

/-- A word that decodes runs its command (R16). -/
theorem stepCommand_of_decode {w : Word} {i : Instr} (h : decode w = some i) (s : State) :
    stepCommand w s = exec i s := by
  simp only [stepCommand, h]

/-! What a command's effect does to the bounded registers, before `finish` records its result. -/

/-- STATUS is left to `finish` (R251). -/
theorem effect_status {s u : State} {i : Instr} {c : ResultCode} (h : Effect s i c u) : u.status = s.status := by
  cases h <;> simp

/-- No command writes RX_CAP (R8). -/
theorem effect_rxCap {s u : State} {i : Instr} {c : ResultCode} (h : Effect s i c u) : u.rxCap = s.rxCap := by
  cases h <;> simp

/-- ERRCLR alone writes ERRFLAGS itself; every other command leaves that to `finish` (R242, R251). -/
theorem effect_errflags {s u : State} {i : Instr} {c : ResultCode} (h : Effect s i c u) :
    u.errflags = s.errflags ∨ (i = .errclr ∧ u.errflags = 0#16) := by
  cases h with
  | errclr => exact .inr ⟨rfl, rfl⟩
  | _ => left; simp

/-- RXB appends only below RX_CAP, and no other command makes the buffer longer (R170). -/
theorem effect_rx_length_le {s u : State} {i : Instr} {c : ResultCode} (h : Effect s i c u)
    (hlen : s.rx.length ≤ s.rxCap) : u.rx.length ≤ s.rxCap := by
  cases h with
  | rxbOk b hne =>
    rw [rxAppend_rx, List.length_append, List.length_singleton]
    omega
  | rxdrop imm =>
    rw [rxDropFront_rx, List.length_drop]
    omega
  | rxclr => exact Nat.zero_le _
  | _ => simpa using hlen

/-! The bounds of the state, under each shared operation. -/

/-- R23: the bit of a nonzero code is none of the reserved bits of ERRFLAGS. -/
theorem flagBit_and_reserved (c : ResultCode) (h : codeNumber c ≠ 0) :
    1#16 <<< codeNumber c &&& 0xF801#16 = 0#16 := by
  cases c with
  | ok => exact absurd rfl h
  | _ => rfl

theorem raiseFlag_and_reserved (e : BitVec 16) (c : ResultCode) :
    raiseFlag e c &&& 0xF801#16 = e &&& 0xF801#16 := by
  unfold raiseFlag
  split
  · rfl
  · rename_i h
    rw [BitVec.and_or_distrib_right, flagBit_and_reserved c h, BitVec.or_zero]

theorem InvBounds.finish {s : State} (h : InvBounds s) (op : Byte) (c : ResultCode) :
    InvBounds (finish op c s) where
  cap := h.cap
  len := h.len
  reserved := (raiseFlag_and_reserved s.errflags c).trans h.reserved
  code := by
    have hc := codeNumber_le c
    rw [statusCode_finish, BitVec.toNat_ofNat]
    omega

theorem InvBounds.effect {s u : State} {i : Instr} {c : ResultCode} (h : InvBounds s) (he : Effect s i c u) :
    InvBounds u where
  cap := effect_rxCap he ▸ h.cap
  len := effect_rxCap he ▸ effect_rx_length_le he h.len
  reserved := by
    rcases effect_errflags he with e | ⟨-, e⟩
    · rw [e, h.reserved]
    · rw [e, BitVec.zero_and]
  code := by
    have hs : statusCode u = statusCode s := congrArg (BitVec.extractLsb' 0 8) (effect_status he)
    rw [hs]
    exact h.code

/-- R241, R280: reset clears every bounded register and keeps RX_CAP. -/
theorem InvBounds.resetBlock {s : State} (h : InvBounds s) : InvBounds (resetBlock s) where
  cap := h.cap
  len := Nat.zero_le _
  reserved := BitVec.zero_and
  code := Nat.zero_le _

theorem InvBounds.exec {s t : State} {i : Instr} (h : InvBounds s) (he : exec i s = .next t) : InvBounds t := by
  by_cases hi : i = .reset
  · subst hi
    cases he
    exact h.resetBlock
  · obtain ⟨c, u, hu, rfl⟩ := exec_next_effect he hi
    exact (h.effect hu).finish _ c

/-- The host's side holds none of the bounded registers. -/
theorem InvBounds.takeCommand {s : State} (h : InvBounds s) (rest : List HostInput) :
    InvBounds (takeCommand rest s) := ⟨h.cap, h.len, h.reserved, h.code⟩

theorem InvBounds.takeInput {s : State} (h : InvBounds s) (rest : List HostInput) :
    InvBounds (takeInput rest s) := ⟨h.cap, h.len, h.reserved, h.code⟩

theorem InvBounds.answerRead {s : State} (h : InvBounds s) (d : ReadData) :
    InvBounds (answerRead d s) := ⟨h.cap, h.len, h.reserved, h.code⟩

end Sys2Proof.Machine

/-- Settles O23: the bounds hold through each of the five cases of a step. -/
theorem boundsKeptByEveryStep : Obligations.BoundsKeptByEveryStep := by
  unfold Obligations.BoundsKeptByEveryStep
  intro s t hs hstep
  rcases step_next_cases hstep with ⟨-, rfl⟩ | ⟨w, rest, i, -, -, hexec⟩ | ⟨w, rest, -, -, rfl⟩ |
    ⟨a, rest, -, rfl⟩ | ⟨rest, -, rfl⟩
  · exact hs
  · exact (hs.takeCommand rest).exec hexec
  · exact (hs.takeCommand rest).finish _ .illegalCmd
  · exact (hs.takeInput rest).answerRead _
  · exact (hs.takeInput rest).resetBlock

/-- Settles O5: `takeCommand` is the state with the stimulus taken and the index moved on. -/
theorem stepRunsDecodedCommand : Obligations.StepRunsDecodedCommand := by
  unfold Obligations.StepRunsDecodedCommand
  intro s w rest i hin hdec
  calc step s = stepCommand w (takeCommand rest s) := step_command hin
    _ = exec i (takeCommand rest s) := stepCommand_of_decode hdec _

end

section
/-! PROOFS. The rounding and square-root primitives of `00_scope.md` R13 and R14. -/

open Sys2Proof Sys2Proof.Machine

namespace Sys2Proof.Machine

/-! RNE against the rational quotient (R13): an error as a fraction of b. -/

theorem abs_div_sub_intCast (a b m : Int) (hb : 0 < b) : |(a : ℚ) / b - m| = (|a - b * m| : Int) / (b : ℚ) := by
  have hb' : (0 : ℚ) < b := by exact_mod_cast hb
  rw [div_sub' hb'.ne', abs_div, abs_of_pos hb']
  push_cast
  rfl

/-- No integer leaves a smaller numerator than RNE: its own is at most b / 2, and one unit away costs b. -/
theorem rne_abs_le (a b m : Int) (hb : 0 < b) : |a - b * rne a b| ≤ |a - b * m| := by
  obtain ⟨hlo, hhi⟩ := rne_bounds a b hb
  have herr : 2 * |a - b * rne a b| ≤ b := by
    rcases abs_cases (a - b * rne a b) with ⟨e, -⟩ | ⟨e, -⟩ <;> omega
  rcases lt_trichotomy m (rne a b) with hm | rfl | hm
  · have hstep : b * (m + 1) ≤ b * rne a b := Int.mul_le_mul_of_nonneg_left hm hb.le
    rw [mul_add, mul_one] at hstep
    have := le_abs_self (a - b * m)
    omega
  · exact le_rfl
  · have hstep : b * (rne a b + 1) ≤ b * m := Int.mul_le_mul_of_nonneg_left hm hb.le
    rw [mul_add, mul_one] at hstep
    have := neg_le_abs (a - b * m)
    omega

/-- An error of exactly half of b is R13's tie: the remainder is half of b. -/
theorem rne_even_of_abs (a b : Int) (hb : 0 < b) (h : 2 * |a - b * rne a b| = b) : rne a b % 2 = 0 := by
  have hdiv := Int.emod_add_mul_ediv a b
  apply rne_even_of_tie
  rcases rne_cases a b with ⟨e, hr⟩ | ⟨e, hr⟩
  · rw [e, show a - b * (a / b) = a % b by omega, abs_of_nonneg (Int.emod_nonneg a hb.ne')] at h
    exact h
  · rw [e, mul_add, mul_one, show a - (b * (a / b) + b) = -(b - a % b) by omega, abs_neg,
      abs_of_pos (by have := Int.emod_lt_of_pos a hb; omega)] at h
    omega

/-! ISQRT and RNSQRT (R14). -/

theorem isqrt_eq_sqrt (n : Nat) : isqrt n = n.sqrt := Nat.eq_sqrt.mpr (isqrt_spec n)

/-- The root that RNSQRT starts from is sqrt(a/b) rounded down. -/
theorem isqrt_div_spec (a b : Nat) (hb : 0 < b) :
    b * isqrt (a / b) ^ 2 ≤ a ∧ a < b * (isqrt (a / b) + 1) ^ 2 := by
  obtain ⟨hlo, hhi⟩ := isqrt_spec (a / b)
  rw [Nat.le_div_iff_mul_le hb] at hlo
  rw [Nat.div_lt_iff_lt_mul hb] at hhi
  constructor <;> linarith

/-- RNSQRT is one of the two neighbours, by R14's comparison with the midpoint, and the even one on the midpoint. -/
theorem rnsqrt_cases (a b : Nat) :
    (rnsqrt a b = isqrt (a / b) ∧ 4 * a ≤ b * (2 * isqrt (a / b) + 1) ^ 2 ∨
      rnsqrt a b = isqrt (a / b) + 1 ∧ b * (2 * isqrt (a / b) + 1) ^ 2 ≤ 4 * a) ∧
    (4 * a = b * (2 * isqrt (a / b) + 1) ^ 2 → rnsqrt a b % 2 = 0) := by
  have hc : 4 * (a : Int) - (b : Int) * (2 * (isqrt (a / b) : Int) + 1) ^ 2 =
      (4 * a : Nat) - (b * (2 * isqrt (a / b) + 1) ^ 2 : Nat) := by push_cast; rfl
  simp only [rnsqrt, hc]
  generalize b * (2 * isqrt (a / b) + 1) ^ 2 = mid
  split
  · omega
  · split
    · omega
    · split <;> omega

/-- RNSQRT against both midpoints: at most half a unit from sqrt(a/b), and even when exactly half a unit away. -/
theorem rnsqrt_nearest (a b : Nat) (hb : 0 < b) :
    4 * a ≤ b * (2 * rnsqrt a b + 1) ^ 2 ∧
    (0 < rnsqrt a b → b * (2 * rnsqrt a b - 1) ^ 2 ≤ 4 * a) ∧
    (4 * a = b * (2 * rnsqrt a b + 1) ^ 2 → rnsqrt a b % 2 = 0) ∧
    (0 < rnsqrt a b → 4 * a = b * (2 * rnsqrt a b - 1) ^ 2 → rnsqrt a b % 2 = 0) := by
  obtain ⟨hlo, hhi⟩ := isqrt_div_spec a b hb
  obtain ⟨hcases, heven⟩ := rnsqrt_cases a b
  generalize isqrt (a / b) = r at hlo hhi hcases heven
  generalize rnsqrt a b = m at hcases heven ⊢
  rcases hcases with ⟨rfl, hmid⟩ | ⟨rfl, hmid⟩
  · have hbelow : 0 < m → b * (2 * m - 1) ^ 2 < 4 * a := fun hm =>
      calc b * (2 * m - 1) ^ 2 < b * (2 * m) ^ 2 :=
            Nat.mul_lt_mul_of_pos_left (Nat.pow_lt_pow_left (by omega) (by decide)) hb
        _ = 4 * (b * m ^ 2) := by ring
        _ ≤ 4 * a := Nat.mul_le_mul_left 4 hlo
    exact ⟨hmid, fun hm => (hbelow hm).le, heven, fun hm ht => absurd ht (hbelow hm).ne'⟩
  · have habove : 4 * a < b * (2 * (r + 1) + 1) ^ 2 :=
      calc 4 * a < 4 * (b * (r + 1) ^ 2) := Nat.mul_lt_mul_of_pos_left hhi (by decide)
        _ = b * (2 * (r + 1)) ^ 2 := by ring
        _ ≤ b * (2 * (r + 1) + 1) ^ 2 := Nat.mul_le_mul_left b (Nat.pow_le_pow_left (by omega) 2)
    rw [show 2 * (r + 1) - 1 = 2 * r + 1 by omega]
    exact ⟨habove.le, fun _ => hmid, fun ht => absurd ht habove.ne, fun _ => heven⟩

end Sys2Proof.Machine

/-- Settles O56: the error is |a - b * m| as a fraction of b, which RNE makes least. -/
theorem roundingIsToNearestEven : Obligations.RoundingIsToNearestEven := by
  unfold Obligations.RoundingIsToNearestEven
  intro a b hb
  have hb' : (0 : ℚ) < b := by exact_mod_cast hb
  constructor
  · intro m
    rw [abs_div_sub_intCast a b _ hb, abs_div_sub_intCast a b m hb, div_le_div_iff_of_pos_right hb']
    exact_mod_cast rne_abs_le a b m hb
  · intro htie
    rw [abs_div_sub_intCast a b _ hb, div_eq_div_iff hb'.ne' two_ne_zero] at htie
    have htie' : |a - b * rne a b| * 2 = 1 * b := by exact_mod_cast htie
    exact rne_even_of_abs a b hb (by omega)

/-- Settles O57: ISQRT is the natural square root, and RNSQRT compares with the midpoint above it. -/
theorem squareRootsAreNearest : Obligations.SquareRootsAreNearest := by
  unfold Obligations.SquareRootsAreNearest
  constructor
  · intro n r
    rw [isqrt_eq_sqrt, Nat.le_sqrt]
  · exact rnsqrt_nearest

end

section
/-! PROOFS. The session every step keeps: what ACK_OK, CFG_VALID and ACK_LEN promise (R25–R27, R129). -/

open Sys2Proof Sys2Proof.Machine

namespace Sys2Proof.Machine

/-! What a command and a step are made of. -/

/-- The inversion of any command: RESET, or one effect with its result recorded. -/
theorem exec_next_cases {i : Instr} {s t : State} (h : exec i s = .next t) :
    (i = .reset ∧ t = resetBlock s) ∨
      (i ≠ .reset ∧ ∃ c u, Effect s i c u ∧ t = finish (opcodeOf i) c u) := by
  by_cases hi : i = .reset
  · subst hi
    rw [exec_reset] at h
    injection h with h
    exact .inl ⟨rfl, h.symm⟩
  · exact .inr ⟨hi, exec_next_effect h hi⟩

/-- An invariant of the shared operations is one of every step: the host's side, a command's effect, a recorded result
and reset are all that a step is made of. -/
theorem step_preserves {P : State → Prop}
    (hhost : ∀ s inputs pc word, P s → P { s with hostInputs := inputs, hostPc := pc, hostRead := word })
    (heffect : ∀ {s i c u}, P s → Effect s i c u → P u) (hfinish : ∀ {s} op c, P s → P (finish op c s))
    (hreset : ∀ s, P s → P (resetBlock s)) {s t : State} (hs : P s) (h : step s = .next t) : P t := by
  rcases step_next_cases h with ⟨-, rfl⟩ | ⟨w, rest, i, -, -, hexec⟩ | ⟨w, rest, -, -, rfl⟩ |
    ⟨a, rest, -, rfl⟩ | ⟨rest, -, rfl⟩
  · exact hs
  · have hpresented : P (takeCommand rest s) := hhost s rest _ s.hostRead hs
    rcases exec_next_cases hexec with ⟨-, rfl⟩ | ⟨-, c, u, hu, rfl⟩
    · exact hreset _ hpresented
    · exact hfinish _ c (heffect hpresented hu)
  · exact hfinish _ .illegalCmd (hhost s rest _ s.hostRead hs)
  · exact hhost s rest s.hostPc _ hs
  · exact hreset _ (hhost s rest s.hostPc s.hostRead hs)

/-! The codes of CfgCheck (R126–R128, R131): what ENC stores is held whole. -/

/-- R126: on the legal voltages UxOf rounds no further down than 0. -/
theorem uxOf_nonneg {vc : Nat} (h1 : 1 ≤ vc) (h2 : vc ≤ 19651) : 0 ≤ uxOf vc := by
  have hb : (0 : Int) < 625 * (vc : Int) := by omega
  have hlo := (rne_bounds (32 * (9000000 - 458 * (vc : Int))) (625 * (vc : Int)) hb).1
  by_contra hneg
  have hle : uxOf vc ≤ -1 := by omega
  have hmul : 625 * (vc : Int) * uxOf vc ≤ 625 * (vc : Int) * (-1) := Int.mul_le_mul_of_nonneg_left hle hb.le
  unfold uxOf at hmul
  omega

/-- R127: a frequency code is not negative. -/
theorem fxOf_nonneg (fq : Nat) : 0 ≤ fxOf fq := le_rne _ _ _ (by decide) (by omega)

/-- R128: what CfgCheck answers lies in its registers' ranges, and so do the operands packed with it. -/
theorem cfgCheck_eq_some {vc fq imp ch it : Nat} {ux fx : Int} (h : cfgCheck vc fq imp ch it = some (ux, fx)) :
    (0 ≤ ux ∧ ux ≤ 255) ∧ (0 ≤ fx ∧ fx ≤ 33554431) ∧ imp ≤ 127 ∧ ch ≤ 255 ∧ it ≤ 16383 := by
  simp only [cfgCheck, Option.ite_none_left_eq_some, Option.some.injEq, Prod.mk.injEq] at h
  obtain ⟨hvc, hux, -, hfx, hops, rfl, rfl⟩ := h
  have hux0 := uxOf_nonneg (vc := vc) (by omega) (by omega)
  have hfx0 := fxOf_nonneg fq
  omega

/-- R12: a code that fits an unsigned register is read back whole. -/
theorem toNat_ofInt_of_lt {w : Nat} {x : Int} (h0 : 0 ≤ x) (h : x < 2 ^ w) :
    (BitVec.ofInt w x).toNat = x.toNat := by
  rw [BitVec.toNat_ofInt, Int.emod_eq_of_lt h0 (by exact_mod_cast h)]

/-- R129, R130: after an ENC that passes CfgCheck, CFRAME is the frame of the stored codes. -/
theorem latchConfig_cframe_eq_packFrame {s : State} {ux fx : Int} (h : stagedCheck s = some (ux, fx)) :
    (latchConfig ux fx { s with ackOk := false }).cframe =
      packFrame (BitVec.ofInt 8 ux).toNat (BitVec.ofInt 25 fx).toNat s.cfgImp.toNat
        (s.cfgCh.setWidth 8).toNat s.cfgInt.toNat := by
  obtain ⟨⟨hux0, hux⟩, ⟨hfx0, hfx⟩, -, hch, -⟩ := cfgCheck_eq_some h
  rw [latchConfig_cframe, toNat_ofInt_of_lt hux0 (by omega), toNat_ofInt_of_lt hfx0 (by omega), BitVec.toNat_setWidth,
    Nat.mod_eq_of_lt (by omega)]

/-! The session, under each shared operation. -/

/-- R69: ACKB writes the first unwritten byte, and none beyond it. -/
theorem InvSession.ackAppend {s : State} (h : InvSession s) (b : Byte) : InvSession (ackAppend b s) where
  acknowledged := h.acknowledged
  framed := h.framed
  unwritten := by
    intro i hi
    rw [ackAppend_ackLen_toNat] at hi
    have hlt : s.ackLen.toNat < i.val := by omega
    show (ackStore s.ackbuf s.ackLen.toNat b)[i.val] = 0#8
    rw [getElem_ackStore, if_neg hlt.ne']
    exact h.unwritten i hlt.le

theorem InvSession.effect {s u : State} {i : Instr} {c : ResultCode} (h : InvSession s) (he : Effect s i c u) :
    InvSession u := by
  cases he with
  | encFail => exact ⟨nofun, nofun, h.unwritten⟩
  | encOk ux fx hcheck =>
    refine ⟨nofun, fun _ => ?_, h.unwritten⟩
    obtain ⟨-, -, himp, -, hit⟩ := cfgCheck_eq_some hcheck
    exact ⟨_, _, himp, hit, latchConfig_cframe_eq_packFrame hcheck⟩
  | ackb b => exact h.ackAppend b
  | ackclr =>
    refine ⟨h.acknowledged, h.framed, fun i _ => ?_⟩
    simp
  | vackBad => exact ⟨nofun, h.framed, h.unwritten⟩
  | vackOk hcfg => exact ⟨fun _ => ⟨hcfg, rfl, rfl⟩, h.framed, h.unwritten⟩
  | _ => exact ⟨by simpa using h.acknowledged, by simpa using h.framed, by simpa using h.unwritten⟩

theorem InvSession.finish {s : State} (h : InvSession s) (op : Byte) (c : ResultCode) : InvSession (finish op c s) :=
  ⟨h.acknowledged, h.framed, h.unwritten⟩

/-- R280: after reset nothing is promised, and every byte of ACKBUF is 0. -/
theorem InvSession.resetBlock (s : State) : InvSession (resetBlock s) where
  acknowledged := nofun
  framed := nofun
  unwritten := fun i _ => by simp [State.reset]

/-- The host's side holds no register of the session. -/
theorem InvSession.hostSide {s : State} (h : InvSession s) (inputs : List HostInput) (pc : Nat)
    (word : Option ReadData) : InvSession { s with hostInputs := inputs, hostPc := pc, hostRead := word } :=
  ⟨h.acknowledged, h.framed, h.unwritten⟩

end Sys2Proof.Machine

/-- Settles O24: the session holds through each operation a step is made of. -/
theorem sessionKeptByEveryStep : Obligations.SessionKeptByEveryStep := by
  unfold Obligations.SessionKeptByEveryStep
  intro s t
  exact step_preserves (fun _ inputs pc word h => h.hostSide inputs pc word) .effect (fun op c h => h.finish op c)
    (fun s _ => .resetBlock s)

end

section
/-! PROOFS. The conversion flags every step keeps (R34, R36, R206, R296). -/

open Sys2Proof Sys2Proof.Machine

namespace Sys2Proof.Machine

/-! The bits of the flags. -/

theorem or_potOk_getLsbD (f : BitVec 4) :
    (f ||| potOk).getLsbD 1 = f.getLsbD 1 ∧ (f ||| potOk).getLsbD 2 = f.getLsbD 2 ∧
      (f ||| potOk).getLsbD 3 = f.getLsbD 3 := by simp [potOk]

theorem or_magvOk_getLsbD (f : BitVec 4) :
    (f ||| magvOk).getLsbD 0 = f.getLsbD 0 ∧ (f ||| magvOk).getLsbD 2 = f.getLsbD 2 ∧
      (f ||| magvOk).getLsbD 3 = f.getLsbD 3 := by simp [magvOk]

/-- R206: CRHO sets RHO_OK, gives RHO_INV its value, and keeps the other two flags. -/
theorem rhoFlags_getLsbD (f : BitVec 4) (undef : Bool) :
    (rhoFlags f undef).getLsbD 0 = f.getLsbD 0 ∧ (rhoFlags f undef).getLsbD 1 = f.getLsbD 1 ∧
      (rhoFlags f undef).getLsbD 2 = true ∧ (rhoFlags f undef).getLsbD 3 = undef := by
  cases undef <;> simp [rhoFlags]

/-! One channel (R204–R206). -/

/-- R36: without flags nothing is promised of a channel. -/
theorem ChannelCurrent.of_flags_zero {c : Channel} (h : c.flags = 0#4) (ip iq : Int) : ChannelCurrent ip iq c := by
  constructor <;> simp [h]

section
variable {ip iq : Int} {c : Channel}

theorem ChannelCurrent.potBody (h : ChannelCurrent ip iq c) : ChannelCurrent ip iq (potBody c) := by
  obtain ⟨h1, h2, h3⟩ := or_potOk_getLsbD c.flags
  exact ⟨fun _ => ⟨rfl, rfl⟩, fun hf => h.magv (h1 ▸ hf), fun hf hf' => h.rho (h2 ▸ hf) (h3 ▸ hf'),
    fun hf => h2.symm ▸ h.inv (h3 ▸ hf)⟩

theorem ChannelCurrent.magvBody (h : ChannelCurrent ip iq c) : ChannelCurrent ip iq (magvBody c) := by
  obtain ⟨h0, h2, h3⟩ := or_magvOk_getLsbD c.flags
  exact ⟨fun hf => h.pot (h0 ▸ hf), fun _ => rfl, fun hf hf' => h.rho (h2 ▸ hf) (h3 ▸ hf'),
    fun hf => h2.symm ▸ h.inv (h3 ▸ hf)⟩

/-- R206: with both currents zero the outputs are the placeholder, and otherwise RHO_INV is cleared. -/
theorem ChannelCurrent.rhoBody (h : ChannelCurrent ip iq c) : ChannelCurrent ip iq (rhoBody ip iq c) := by
  unfold Machine.rhoBody
  split
  · rename_i hden
    obtain ⟨h0, h1, h2, h3⟩ := rhoFlags_getLsbD c.flags true
    have hip : ip = 0 := by nlinarith [sq_nonneg iq]
    have hiq : iq = 0 := by simpa [hip] using hden
    exact ⟨fun hf => h.pot (h0 ▸ hf), fun hf => h.magv (h1 ▸ hf),
      fun _ hf => absurd (h3.symm.trans hf) (by decide), fun _ => ⟨h2, hip, hiq, rfl, rfl⟩⟩
  · obtain ⟨h0, h1, h2, h3⟩ := rhoFlags_getLsbD c.flags false
    exact ⟨fun hf => h.pot (h0 ▸ hf), fun hf => h.magv (h1 ▸ hf), fun _ _ => ⟨rfl, rfl⟩,
      fun hf => absurd (h3 ▸ hf) (by decide)⟩

theorem ChannelCurrent.channelBody (h : ChannelCurrent ip iq c) : ChannelCurrent ip iq (channelBody ip iq c) :=
  h.potBody.magvBody.rhoBody

end

/-! The whole block, under each shared operation. -/

/-- R204–R207: commands on channels of the frame alone keep the flags' promises when they do so for each channel. -/
theorem InvConverted.withChannels {s : State} (h : InvConverted s) (f : Nat → Channel → Channel)
    (hout : ∀ k c, s.frameCh.toNat ≤ k → f k c = c)
    (hf : ∀ k c, ChannelCurrent s.iPRaw.toInt s.iQRaw.toInt c →
      ChannelCurrent s.iPRaw.toInt s.iQRaw.toInt (f k c)) :
    InvConverted (withChannels f s) where
  noFrame := h.noFrame
  bat := h.bat
  cur := h.cur
  magi := h.magi
  inFrame := by
    intro k hk
    rw [withChannels_frameCh] at hk
    simp only [withChannels_channels, getElem_mapChannels, hout k.val _ hk]
    exact h.inFrame k hk
  current := by
    intro k
    simp only [withChannels_channels, getElem_mapChannels]
    exact hf _ _ (h.current k)

/-- R204–R206: a command on one channel of the frame. -/
theorem InvConverted.updateChannel {s : State} {k : BitVec 8} (h : InvConverted s) (hk : channelInFrame s k = true)
    {f : Channel → Channel}
    (hf : ∀ c, ChannelCurrent s.iPRaw.toInt s.iQRaw.toInt c → ChannelCurrent s.iPRaw.toInt s.iQRaw.toInt (f c)) :
    InvConverted (updateChannel k.toNat f s) := by
  have hlt : k.toNat < s.frameCh.toNat := of_decide_eq_true hk
  refine h.withChannels _ (fun j c hj => if_neg (by omega)) (fun j c hc => ?_)
  split
  · exact hf c hc
  · exact hc

/-- R207: CALL's loop leaves the channels past FRAME_CH as they are. -/
theorem InvConverted.allChannels {s : State} (h : InvConverted s) : InvConverted (allChannels s) := by
  refine h.withChannels _ (fun j c hj => if_neg (by omega)) (fun j c hc => ?_)
  split
  · exact hc.channelBody
  · exact hc

@[simp] theorem currentSquares_batBody (s : State) : currentSquares (batBody s) = currentSquares s := by
  simp only [currentSquares, batBody_iPRaw, batBody_iQRaw]

@[simp] theorem currentSquares_curBody (s : State) : currentSquares (curBody s) = currentSquares s := by
  simp only [currentSquares, curBody_iPRaw, curBody_iQRaw]

@[simp] theorem currentSquares_magiBody (s : State) : currentSquares (magiBody s) = currentSquares s := by
  simp only [currentSquares, magiBody_iPRaw, magiBody_iQRaw]

/-! R201–R203: each frame command makes its own registers current, and keeps the promises of the other flags. -/

theorem InvConverted.batBody {s : State} (h : InvConverted s) (hv : s.frameValid = true) :
    InvConverted (batBody s) where
  noFrame := by simp [hv]
  bat := by simp
  cur := by simpa [batOk] using h.cur
  magi := by simpa [batOk] using h.magi
  inFrame := by simpa using h.inFrame
  current := by simpa using h.current

theorem InvConverted.curBody {s : State} (h : InvConverted s) (hv : s.frameValid = true) :
    InvConverted (curBody s) where
  noFrame := by simp [hv]
  bat := by simpa [curOk] using h.bat
  cur := by simp
  magi := by simpa [curOk] using h.magi
  inFrame := by simpa using h.inFrame
  current := by simpa using h.current

theorem InvConverted.magiBody {s : State} (h : InvConverted s) (hv : s.frameValid = true) :
    InvConverted (magiBody s) where
  noFrame := by simp [hv]
  bat := by simpa [magiOk] using h.bat
  cur := by simpa [magiOk] using h.cur
  magi := by simp
  inFrame := by simpa using h.inFrame
  current := by simpa using h.current

/-- R176: VAL clears CH_FLAGS of every channel, of the frame or not. -/
@[simp] theorem loadChannel_flags (f : FrameFields) (n k : Nat) (c : Channel) : (loadChannel f n k c).flags = 0#4 := by
  unfold loadChannel
  split <;> rfl

theorem loadFrame_channels_flags (f : FrameFields) (s : State) (k : Fin 255) :
    (loadFrame f s).channels[k.val].flags = 0#4 := by simp

/-- R176, R296: an extracted frame comes with no flag set. -/
theorem InvConverted.loadFrame (f : FrameFields) (s : State) : InvConverted (loadFrame f s) where
  noFrame := nofun
  bat := by simp
  cur := by simp
  magi := by simp
  inFrame := fun k _ => loadFrame_channels_flags f s k
  current := fun k => .of_flags_zero (loadFrame_channels_flags f s k) _ _

/-- R280: after reset no flag is set. -/
theorem InvConverted.resetBlock (s : State) : InvConverted (resetBlock s) where
  noFrame := fun _ => ⟨rfl, rfl⟩
  bat := by simp [State.reset]
  cur := by simp [State.reset]
  magi := by simp [State.reset]
  inFrame := fun k _ => by simp [Channel.reset]
  current := fun k => .of_flags_zero (by simp [Channel.reset]) _ _

theorem InvConverted.effect {s u : State} {i : Instr} {c : ResultCode} (h : InvConverted s) (he : Effect s i c u) :
    InvConverted u := by
  cases he with
  | valOk => exact .loadFrame _ s
  | cbatOk hv => exact h.batBody hv
  | ccurOk hv => exact h.curBody hv
  | cmagiOk hv => exact h.magiBody hv
  | cpotOk k _ hk => exact h.updateChannel hk fun _ hc => hc.potBody
  | cmagvOk k _ hk => exact h.updateChannel hk fun _ hc => hc.magvBody
  | crhoOk k _ hk => exact h.updateChannel hk fun _ hc => hc.rhoBody
  | callOk hv => exact (((h.batBody hv).curBody hv).magiBody hv).allChannels
  | _ => exact ⟨h.noFrame, h.bat, h.cur, h.magi, h.inFrame, h.current⟩

theorem InvConverted.finish {s : State} (h : InvConverted s) (op : Byte) (c : ResultCode) :
    InvConverted (finish op c s) := ⟨h.noFrame, h.bat, h.cur, h.magi, h.inFrame, h.current⟩

/-- The host's side holds no register of the converter. -/
theorem InvConverted.hostSide {s : State} (h : InvConverted s) (inputs : List HostInput) (pc : Nat)
    (word : Option ReadData) : InvConverted { s with hostInputs := inputs, hostPc := pc, hostRead := word } :=
  ⟨h.noFrame, h.bat, h.cur, h.magi, h.inFrame, h.current⟩

end Sys2Proof.Machine

/-- Settles O25: the flags keep their promises through each operation a step is made of. -/
theorem conversionFlagsKeptByEveryStep : Obligations.ConversionFlagsKeptByEveryStep := by
  unfold Obligations.ConversionFlagsKeptByEveryStep
  intro s t
  exact step_preserves (fun _ inputs pc word h => h.hostSide inputs pc word) .effect (fun op c h => h.finish op c)
    (fun s _ => .resetBlock s)

/-- Settles O26: reset is what `resetBlock` leaves, and RX_CAP has its default there. -/
theorem resetMeetsTheInvariants : Obligations.ResetMeetsTheInvariants := by
  unfold Obligations.ResetMeetsTheInvariants
  have hbounds : InvBounds State.reset := ⟨by decide, Nat.zero_le _, rfl, Nat.zero_le _⟩
  exact ⟨hbounds, .resetBlock State.reset, .resetBlock State.reset⟩

end

section
/-! PROOFS. Which registers each command writes, and what it records (R21–R32, R250, R251). -/

open Sys2Proof Sys2Proof.Machine Sys2Proof.Claims

namespace Sys2Proof.Machine

/-! The result (R22, R250, R251). -/

/-- R250: a code is known from its number in CODE. -/
theorem ofNat_codeNumber_inj {c d : ResultCode} :
    BitVec.ofNat 8 (codeNumber c) = BitVec.ofNat 8 (codeNumber d) ↔ c = d := by
  cases c <;> cases d <;> decide

theorem statusCode_finish_eq_iff (op : Byte) (c d : ResultCode) (s : State) :
    statusCode (finish op c s) = BitVec.ofNat 8 (codeNumber d) ↔ c = d := by
  rw [statusCode_finish, ofNat_codeNumber_inj]

/-- R250's "raised by" column. -/
theorem effect_code_mem_mayRaise {s u : State} {i : Instr} {c : ResultCode} (h : Effect s i c u) :
    c ∈ mayRaise i := by
  cases h with
  | crhoOk k =>
    unfold rhoCode
    split <;> simp [mayRaise]
  | callOk =>
    unfold callCode
    split <;> simp [mayRaise]
  | _ => simp [mayRaise]

theorem effect_errflags_of_ne {s u : State} {i : Instr} {c : ResultCode} (h : Effect s i c u) (hi : i ≠ .errclr) :
    u.errflags = s.errflags :=
  (effect_errflags h).resolve_right fun h' => hi h'.1

/-- R242: ERRCLR clears every flag and answers OK. -/
theorem effect_errclr {s u : State} {c : ResultCode} (h : Effect s .errclr c u) : c = .ok ∧ u.errflags = 0#16 := by
  cases h
  exact ⟨rfl, rfl⟩

/-- R251: ERRFLAGS after a command that is not ERRCLR. -/
theorem effect_finish_errflags {s u : State} {i : Instr} {c : ResultCode} (h : Effect s i c u) (hi : i ≠ .errclr)
    (op : Byte) : (finish op c u).errflags = raiseFlag s.errflags c := by
  rw [finish_errflags, effect_errflags_of_ne h hi]

/-! The registers a command's effect keeps. RESET, which is no effect, is apart. -/

section
variable {s u : State} {i : Instr} {c : ResultCode}

/-- R7, R21: no command touches the host's side. -/
theorem effect_hostSide (h : Effect s i c u) :
    u.hostInputs = s.hostInputs ∧ u.hostPc = s.hostPc ∧ u.hostRead = s.hostRead := by
  cases h <;> simp

/-- R28's writers of the buffer. -/
theorem effect_rx (h : Effect s i c u) :
    u.rx = s.rx ∨ (∃ b, i = .rxb b) ∨ i = .rxclr ∨ ∃ n, i = .rxdrop n := by
  cases h with
  | rxbOk b => exact .inr (.inl ⟨b, rfl⟩)
  | rxclr => exact .inr (.inr (.inl rfl))
  | rxdrop n => exact .inr (.inr (.inr ⟨n, rfl⟩))
  | _ => left; simp

/-- R26, R27: VACK alone writes the active configuration. -/
theorem effect_active (h : Effect s i c u) (hi : i ≠ .vack) :
    u.actValid = s.actValid ∧ u.actCh = s.actCh ∧ u.run = s.run ∧ u.boardId = s.boardId := by
  cases h with
  | vackBad => exact absurd rfl hi
  | vackOk => exact absurd rfl hi
  | _ => simp

/-- R26: VACK and ENC alone write ACK_OK. -/
theorem effect_ackOk (h : Effect s i c u) (hv : i ≠ .vack) (he : i ≠ .enc) : u.ackOk = s.ackOk := by
  cases h with
  | vackBad => exact absurd rfl hv
  | vackOk => exact absurd rfl hv
  | encFail => exact absurd rfl he
  | encOk => exact absurd rfl he
  | _ => simp

/-- R26, R69: ACKB and ACKCLR alone write the reply buffer. -/
theorem effect_reply (h : Effect s i c u) (hc : i ≠ .ackclr) (hb : ∀ b, i ≠ .ackb b) :
    u.ackLen = s.ackLen ∧ u.ackbuf = s.ackbuf := by
  cases h with
  | ackb b => exact absurd rfl (hb b)
  | ackclr => exact absurd rfl hc
  | _ => simp

/-- R25: ENC alone writes the encoder's outputs. -/
theorem effect_encoder (h : Effect s i c u) (hi : i ≠ .enc) :
    u.cfgValid = s.cfgValid ∧ u.ux = s.ux ∧ u.fx = s.fx ∧ u.encCh = s.encCh ∧ u.cframe = s.cframe := by
  cases h with
  | encFail => exact absurd rfl hi
  | encOk => exact absurd rfl hi
  | _ => simp

/-- R130, R294: a failed ENC clears CFG_VALID and keeps the other outputs. -/
theorem effect_enc_failed (h : Effect s .enc c u) (hc : c ≠ .ok) :
    u.cfgValid = false ∧ u.ux = s.ux ∧ u.fx = s.fx ∧ u.encCh = s.encCh ∧ u.cframe = s.cframe := by
  cases h with
  | encFail => simp
  | encOk => exact absurd rfl hc

/-- R29, R176: what FRAME_COUNT counts. -/
theorem effect_frameCount (h : Effect s i c u) :
    u.frameCount = s.frameCount + if i = .val ∧ c = .ok then 1#32 else 0#32 := by
  cases h <;> simp

/-- R29, R176: what REJECT_COUNT counts. -/
theorem effect_rejectCount (h : Effect s i c u) :
    u.rejectCount = s.rejectCount + if i = .val ∧ c = .frameRejected then 1#32 else 0#32 := by
  cases h <;> simp

/-- R29, R170: what OVF_COUNT counts. -/
theorem effect_ovfCount (h : Effect s i c u) :
    u.ovfCount = s.ovfCount + if (∃ b, i = .rxb b) ∧ c = .rxOverflow then 1#32 else 0#32 := by
  cases h <;> simp

/-- R30, R31: only a successful VAL writes the registers of the frame as a whole. -/
theorem effect_frameFields (h : Effect s i c u) (hi : ¬ (i = .val ∧ c = .ok)) :
    u.frameValid = s.frameValid ∧ u.frameCh = s.frameCh ∧ u.measCount = s.measCount ∧
      u.recBatRaw = s.recBatRaw ∧ u.emBatRaw = s.emBatRaw ∧ u.iPRaw = s.iPRaw ∧ u.iQRaw = s.iQRaw := by
  cases h with
  | valOk => exact absurd ⟨rfl, rfl⟩ hi
  | _ => simp

end

/-! The raw codes of a channel (R32), which the converter reads and does not write. -/

/-- Equal raw codes. -/
def SameRaw (c d : Channel) : Prop := c.vPRaw = d.vPRaw ∧ c.vQRaw = d.vQRaw

theorem sameRaw_potBody (c : Channel) : SameRaw (potBody c) c := ⟨rfl, rfl⟩

theorem sameRaw_magvBody (c : Channel) : SameRaw (magvBody c) c := ⟨rfl, rfl⟩

theorem sameRaw_rhoBody (ip iq : Int) (c : Channel) : SameRaw (rhoBody ip iq c) c := by
  unfold rhoBody
  split <;> exact ⟨rfl, rfl⟩

theorem sameRaw_channelBody (ip iq : Int) (c : Channel) : SameRaw (channelBody ip iq c) c :=
  sameRaw_rhoBody ip iq (magvBody (potBody c))

theorem sameRaw_updateChannel {f : Channel → Channel} (hf : ∀ c, SameRaw (f c) c) (j : Nat) (s : State)
    (k : Fin 255) : SameRaw (updateChannel j f s).channels[k.val] s.channels[k.val] := by
  rw [updateChannel_channels_getElem]
  split
  · exact hf _
  · exact ⟨rfl, rfl⟩

theorem sameRaw_allChannels (s : State) (k : Fin 255) :
    SameRaw (allChannels s).channels[k.val] s.channels[k.val] := by
  simp only [allChannels_channels, getElem_mapChannels]
  split
  · exact sameRaw_channelBody _ _ _
  · exact ⟨rfl, rfl⟩

/-- R32: only a successful VAL writes raw codes. -/
theorem effect_sameRaw {s u : State} {i : Instr} {c : ResultCode} (h : Effect s i c u) (hi : ¬ (i = .val ∧ c = .ok))
    (k : Fin 255) : SameRaw u.channels[k.val] s.channels[k.val] := by
  cases h with
  | valOk => exact absurd ⟨rfl, rfl⟩ hi
  | cpotOk j => exact sameRaw_updateChannel sameRaw_potBody _ s k
  | cmagvOk j => exact sameRaw_updateChannel sameRaw_magvBody _ s k
  | crhoOk j => exact sameRaw_updateChannel (sameRaw_rhoBody _ _) _ s k
  | callOk => simpa using sameRaw_allChannels (magiBody (curBody (batBody s))) k
  | _ => simp [SameRaw]

/-! The host's side, under a whole step (R21). -/

/-- Every command completes, and leaves RX_CAP and the host's side alone. -/
theorem exec_keeps_hostSide (i : Instr) (s : State) : ∃ t, exec i s = .next t ∧
    t.hostPc = s.hostPc ∧ t.hostInputs = s.hostInputs ∧ t.rxCap = s.rxCap ∧ t.hostRead = s.hostRead := by
  by_cases hi : i = .reset
  · subst hi
    exact ⟨resetBlock s, exec_reset s, rfl, rfl, rfl, rfl⟩
  · obtain ⟨c, u, hu⟩ := effect_exists i s hi
    obtain ⟨hin, hpc, hread⟩ := effect_hostSide hu
    have hcap := effect_rxCap hu
    exact ⟨_, exec_of_effect hu, hpc, hin, hcap, hread⟩

end Sys2Proof.Machine

/-- Settles O9: `takeCommand` moves the index, and neither a command nor ILLEGAL_CMD touches the host's side. -/
theorem hostIndexAdvancesByOne : Obligations.HostIndexAdvancesByOne := by
  unfold Obligations.HostIndexAdvancesByOne
  intro s w rest hin
  rw [step_command hin]
  cases hdec : decode w with
  | none =>
    rw [stepCommand, hdec]
    exact ⟨_, rfl, rfl, rfl, rfl, rfl⟩
  | some i =>
    rw [stepCommand_of_decode hdec]
    exact exec_keeps_hostSide i (takeCommand rest s)

/-- Settles O15: `finish` records the code that the command's effect ended with. -/
theorem everyCommandRecordsItsResult : Obligations.EveryCommandRecordsItsResult := by
  unfold Obligations.EveryCommandRecordsItsResult
  refine ⟨fun i s t h hi => ?_, fun s t h => ?_, rfl⟩
  · obtain ⟨c, u, hu, rfl⟩ := exec_next_effect h hi
    refine ⟨c, effect_code_mem_mayRaise hu, by rw [opField_encode]; rfl, ?_⟩
    by_cases hclr : i = .errclr
    · subst hclr
      obtain ⟨rfl, he⟩ := effect_errclr hu
      rw [if_pos rfl, finish_errflags, he, raiseFlag_ok]
    · rw [if_neg hclr, effect_finish_errflags hu hclr]
      rfl
  · rw [exec_reset] at h
    cases h
    rfl

/-- Settles O17, by the writers of the buffer among the effects. -/
theorem bufferChangedOnlyByBufferCommands : Obligations.BufferChangedOnlyByBufferCommands := by
  unfold Obligations.BufferChangedOnlyByBufferCommands
  intro i s t h hne
  rcases exec_next_cases h with ⟨hi, -⟩ | ⟨-, c, u, hu, rfl⟩
  · exact .inr (.inr (.inr hi))
  · rcases effect_rx hu with hrx | hb | hclr | hdrop
    · exact absurd hrx hne
    · exact .inl hb
    · exact .inr (.inl hclr)
    · exact .inr (.inr (.inl hdrop))

/-- Settles O18: `finish` writes no register of the session, so an effect's frame is the command's. -/
theorem sessionWrittenOnlyByItsCommands : Obligations.SessionWrittenOnlyByItsCommands := by
  unfold Obligations.SessionWrittenOnlyByItsCommands
  intro i s t h hi
  obtain ⟨c, u, hu, rfl⟩ := exec_next_effect h hi
  exact ⟨(effect_active hu :), (effect_ackOk hu :), (effect_reply hu :)⟩

/-- Settles O19: an ENC whose CODE is not 0 has failed. -/
theorem encoderOutputsWrittenOnlyByEnc : Obligations.EncoderOutputsWrittenOnlyByEnc := by
  unfold Obligations.EncoderOutputsWrittenOnlyByEnc
  refine ⟨fun i s t h hi henc => ?_, fun s t h hcode => ?_⟩
  · obtain ⟨c, u, hu, rfl⟩ := exec_next_effect h hi
    exact (effect_encoder hu henc :)
  · obtain ⟨c, u, hu, rfl⟩ := exec_next_effect h (by decide)
    have hc : c ≠ .ok := fun hok => hcode ((statusCode_finish_eq_iff _ c .ok u).mpr hok)
    exact (effect_enc_failed hu hc :)

/-- Settles O20: each counter's event is told by the code in CODE. -/
theorem countersCountTheirEvents : Obligations.CountersCountTheirEvents := by
  unfold Obligations.CountersCountTheirEvents
  refine ⟨fun i s t h hi => ?_, rfl, rfl, rfl⟩
  obtain ⟨c, u, hu, rfl⟩ := exec_next_effect h hi
  have hok := statusCode_finish_eq_iff (opcodeOf i) c .ok u
  have hrejected := statusCode_finish_eq_iff (opcodeOf i) c .frameRejected u
  have hoverflow := statusCode_finish_eq_iff (opcodeOf i) c .rxOverflow u
  simp only [codeNumber_ok, codeNumber_frameRejected, codeNumber_rxOverflow] at hok hrejected hoverflow
  simp only [hok, hrejected, hoverflow]
  exact ⟨(effect_frameCount hu :), (effect_rejectCount hu :), (effect_ovfCount hu :)⟩

/-- Settles O21: conversions write converted registers and flags alone. -/
theorem rawFieldsWrittenOnlyByVal : Obligations.RawFieldsWrittenOnlyByVal := by
  unfold Obligations.RawFieldsWrittenOnlyByVal
  intro i s t h hi hval
  obtain ⟨c, u, hu, rfl⟩ := exec_next_effect h hi
  have hne : ¬ (i = .val ∧ c = .ok) := fun ⟨hv, hc⟩ => hval ⟨hv, (statusCode_finish_eq_iff _ c .ok u).mpr hc⟩
  obtain ⟨hvalid, hch, hmeas, hrec, hem, hip, hiq⟩ := effect_frameFields hu hne
  exact ⟨hvalid, hch, hmeas, hrec, hem, hip, hiq, (effect_sameRaw hu hne :)⟩

/-- Settles O7: `answerRead` and `takeInput` write the model's own fields alone. -/
theorem readHasNoSideEffect : Obligations.ReadHasNoSideEffect := by
  unfold Obligations.ReadHasNoSideEffect
  intro s a rest hin
  calc step s = .next (answerRead (readPort s a) (takeInput rest s)) := step_read hin
    _ = _ := rfl

end

section
/-! PROOFS. The sticky error flags (R23, R242, R251, R253). -/

open Sys2Proof Sys2Proof.Machine

namespace Sys2Proof

/-- R88: a word that decodes is the one word that encodes its command: each row's format fixes every field but the
operand. -/
theorem encode_of_decode {w : Word} {i : Instr} (h : decode w = some i) : encode i = w := by
  unfold decode at h
  split at h <;> rename_i hop <;>
    simp only [decodeN, decodeBK, decodeI, Option.ite_none_right_eq_some, Option.some.injEq, reduceCtorEq] at h
  all_goals
    obtain ⟨hfields, rfl⟩ := h
    refine Eq.trans ?_ (wordOf_fields w)
    simp only [hop, hfields]
    rfl

end Sys2Proof

namespace Sys2Proof.Machine

/-! What happens to ERRFLAGS. -/

/-- Raising a flag clears none. -/
theorem raiseFlag_keeps {e : BitVec 16} {j : Nat} (h : e.getLsbD j = true) (c : ResultCode) :
    (raiseFlag e c).getLsbD j = true := by
  rw [raiseFlag_getLsbD, h, Bool.true_or]

/-- R251: a nonzero CODE stands in ERRFLAGS as the bit of its number. -/
theorem finish_raises_statusCode (op : Byte) (c : ResultCode) (s : State)
    (h : statusCode (finish op c s) ≠ 0#8) :
    (finish op c s).errflags.getLsbD (statusCode (finish op c s)).toNat = true := by
  have hc : c ≠ .ok := fun hok => h ((statusCode_finish_eq_iff op c .ok s).mpr hok)
  rw [statusCode_finish, finish_errflags, raiseFlag_getLsbD]
  cases c with
  | ok => exact absurd rfl hc
  | _ => simp

theorem exec_raises_statusCode {i : Instr} {s t : State} (h : exec i s = .next t) (hc : statusCode t ≠ 0#8) :
    t.errflags.getLsbD (statusCode t).toNat = true := by
  rcases exec_next_cases h with ⟨-, rfl⟩ | ⟨-, c, u, -, rfl⟩
  · exact absurd rfl hc
  · exact finish_raises_statusCode _ c u hc

/-- R23, R242: no command but RESET and ERRCLR clears a flag. -/
theorem exec_keeps_errflags {i : Instr} {s t : State} (h : exec i s = .next t) (hreset : i ≠ .reset)
    (herrclr : i ≠ .errclr) {j : Nat} (hj : s.errflags.getLsbD j = true) : t.errflags.getLsbD j = true := by
  obtain ⟨c, u, hu, rfl⟩ := exec_next_effect h hreset
  rw [effect_finish_errflags hu herrclr]
  exact raiseFlag_keeps hj c

/-! The three clauses of R23, for a step. -/

theorem step_keeps_errflags {s t : State} (h : step s = .next t)
    (hreset : ∀ rest, s.hostInputs ≠ .command (encode .reset) :: rest)
    (herrclr : ∀ rest, s.hostInputs ≠ .command (encode .errclr) :: rest)
    (hinput : ∀ rest, s.hostInputs ≠ .resetInput :: rest) {j : Nat} (hj : s.errflags.getLsbD j = true) :
    t.errflags.getLsbD j = true := by
  rcases step_next_cases h with ⟨-, rfl⟩ | ⟨w, rest, i, hin, hdec, hexec⟩ | ⟨w, rest, -, -, rfl⟩ |
    ⟨a, rest, -, rfl⟩ | ⟨rest, hin, -⟩
  · exact hj
  · have hw := encode_of_decode hdec
    refine exec_keeps_errflags hexec ?_ ?_ hj
    · rintro rfl
      exact hreset rest (hw ▸ hin)
    · rintro rfl
      exact herrclr rest (hw ▸ hin)
  · exact raiseFlag_keeps hj .illegalCmd
  · exact hj
  · exact absurd hin (hinput rest)

theorem step_command_raises_statusCode {s t : State} {w : Word} {rest : List HostInput}
    (hin : s.hostInputs = .command w :: rest) (h : step s = .next t) (hc : statusCode t ≠ 0#8) :
    t.errflags.getLsbD (statusCode t).toNat = true := by
  rw [step_command hin, stepCommand] at h
  split at h
  · exact exec_raises_statusCode h hc
  · injection h with h
    subst h
    exact finish_raises_statusCode _ .illegalCmd _ hc

/-- R23: no effect sets a reserved bit, and no code's bit is reserved. -/
theorem effect_keeps_reserved {s u : State} {i : Instr} {c : ResultCode} (hs : s.errflags &&& 0xF801#16 = 0#16)
    (h : Effect s i c u) : u.errflags &&& 0xF801#16 = 0#16 := by
  rcases effect_errflags h with e | ⟨-, e⟩
  · rw [e, hs]
  · rw [e, BitVec.zero_and]

theorem step_keeps_reserved {s t : State} (h : step s = .next t) (hs : s.errflags &&& 0xF801#16 = 0#16) :
    t.errflags &&& 0xF801#16 = 0#16 :=
  step_preserves (P := fun s => s.errflags &&& 0xF801#16 = 0#16) (fun _ _ _ _ hs => hs) effect_keeps_reserved
    (fun _ c hs => (raiseFlag_and_reserved _ c).trans hs) (fun _ _ => BitVec.zero_and) hs h

end Sys2Proof.Machine

/-- Settles O16: 0x00000001 and 0x00000002 are the words of RESET and ERRCLR, and no others decode to them. -/
theorem errorFlagsAreSticky : Obligations.ErrorFlagsAreSticky := by
  unfold Obligations.ErrorFlagsAreSticky
  refine ⟨fun s t h hin j hj => ?_, fun s t w rest => step_command_raises_statusCode,
    fun s t => step_keeps_reserved, rfl⟩
  have hinput : ∀ rest, s.hostInputs ≠ .resetInput :: rest := fun rest => (hin rest).2.2
  have hreset : encode .reset = 0x00000001#32 := rfl
  have herrclr : encode .errclr = 0x00000002#32 := rfl
  refine step_keeps_errflags h ?_ ?_ hinput hj
  · exact fun rest => hreset ▸ (hin rest).1
  · exact fun rest => herrclr ▸ (hin rest).2.1

end

section
/-! PROOFS. The read map (R38, R39, R62, R65) and that it shows the whole state (R37). -/

open Sys2Proof Sys2Proof.Machine Sys2Proof.Claims

namespace Sys2Proof.Machine

/-! Registers inside a read word (R38). -/

theorem toNat_zextWord {n : Nat} (v : BitVec n) (h : n ≤ 64 := by decide) : (zextWord v).toNat = v.toNat :=
  BitVec.toNat_setWidth_of_le h

theorem toInt_sextWord {n : Nat} (v : BitVec n) (h : n ≤ 64 := by decide) : (sextWord v).toInt = v.toInt :=
  BitVec.toInt_signExtend_of_le h

/-- A 64-bit register is a whole read word. -/
theorem toInt_zextWord (v : BitVec 64) : (zextWord v).toInt = v.toInt := by
  rw [zextWord, BitVec.setWidth_eq]

theorem zextWord_inj {n : Nat} {v w : BitVec n} (h : n ≤ 64) (he : zextWord v = zextWord w) : v = w :=
  BitVec.eq_of_toNat_eq (by rw [← toNat_zextWord v h, he, toNat_zextWord w h])

theorem sextWord_inj {n : Nat} {v w : BitVec n} (h : n ≤ 64) (he : sextWord v = sextWord w) : v = w :=
  BitVec.eq_of_toInt_eq (by rw [← toInt_sextWord v h, he, toInt_sextWord w h])

/-- R62: byte i of a packed group. -/
theorem packBytes_byte (bs : List Byte) (i : Nat) : packBytes bs / 256 ^ i % 256 = (bs.getD i 0#8).toNat := by
  induction bs generalizing i with
  | nil => simp [packBytes]
  | cons b bs ih =>
    cases i with
    | zero =>
      simp only [packBytes, List.getD_cons_zero]
      omega
    | succ i =>
      have hdiv : (b.toNat + 256 * packBytes bs) / 256 = packBytes bs := by omega
      rw [packBytes, Nat.pow_succ', ← Nat.div_div_eq_div_mul, hdiv, ih, List.getD_cons_succ]

theorem packBytes_lt (bs : List Byte) : packBytes bs < 256 ^ bs.length := by
  induction bs with
  | nil => simp [packBytes]
  | cons b bs ih =>
    rw [packBytes, List.length_cons, Nat.pow_succ]
    omega

theorem packedWord_toNat {bs : List Byte} (h : bs.length ≤ 8) : (packedWord bs).toNat = packBytes bs := by
  rw [packedWord, BitVec.toNat_ofNat, Nat.mod_eq_of_lt]
  calc packBytes bs < 256 ^ bs.length := packBytes_lt bs
    _ ≤ 256 ^ 8 := Nat.pow_le_pow_right (by decide) h
    _ = 2 ^ 64 := by decide

theorem packedWord_byte {bs : List Byte} (h : bs.length ≤ 8) (i : Nat) :
    (packedWord bs).extractLsb' (8 * i) 8 = bs.getD i 0#8 := by
  apply BitVec.eq_of_toNat_eq
  rw [BitVec.extractLsb'_toNat, packedWord_toNat h, Nat.shiftRight_eq_div_pow, Nat.pow_mul]
  exact packBytes_byte bs i

theorem packedWord_toNat_lt {bs : List Byte} {m : Nat} (h : bs.length ≤ m) (hm : m ≤ 8) :
    (packedWord bs).toNat < 256 ^ m := by
  rw [packedWord_toNat (h.trans hm)]
  exact (packBytes_lt bs).trans_le (Nat.pow_le_pow_right (by decide) h)

/-! The packed rows. -/

theorem readPort_status_code (s : State) : (readPort s 0x0000#16).extractLsb' 0 8 = statusCode s := by
  rw [readPort_0x0000, zextWord, BitVec.extractLsb'_setWidth_of_le (by decide : 0 + 8 ≤ 64), statusCode]

theorem readPort_status_lastOp (s : State) : (readPort s 0x0000#16).extractLsb' 8 8 = statusLastOp s := by
  rw [readPort_0x0000, zextWord, BitVec.extractLsb'_setWidth_of_le (by decide : 8 + 8 ≤ 64), statusLastOp]

/-- The four valid bits at 0x0008. -/
theorem validBits (a b c d : Bool) :
    let x := bitWord a ||| bitWord b <<< 1 ||| bitWord c <<< 2 ||| bitWord d <<< 3
    x.getLsbD 0 = a ∧ x.getLsbD 1 = b ∧ x.getLsbD 2 = c ∧ x.getLsbD 3 = d ∧ x.toNat < 16 := by
  decide +revert

theorem readPort_run (s : State) : (readPort s 0x0013#16).getLsbD 0 = s.run := by
  simp [readPort_0x0013, bitWord]

theorem readPort_boardId (s : State) : (readPort s 0x0013#16).extractLsb' 1 6 = s.boardId := by
  ext j hj
  simp [readPort_0x0013, bitWord, zextWord, show 1 + j < 64 by omega,
    BitVec.getLsbD_eq_getElem hj]

theorem readPort_0x0013_lt (s : State) : (readPort s 0x0013#16).toNat < 2 ^ 7 := by
  have hrun : (bitWord s.run).toNat < 2 ^ 7 := by cases s.run <;> decide
  have hboard : (zextWord s.boardId <<< 1).toNat < 2 ^ 7 := by
    have := s.boardId.isLt
    rw [BitVec.toNat_shiftLeft, toNat_zextWord s.boardId, Nat.shiftLeft_eq]
    omega
  rw [readPort_0x0013, BitVec.toNat_or]
  exact Nat.or_lt_two_pow hrun hboard

theorem readPort_cframe_low (s : State) (i : Fin 8) :
    (readPort s 0x000C#16).extractLsb' (8 * i.val) 8 = s.cframe[i.val] := by
  rw [readPort_0x000C, packedWord_byte (by simp)]
  simp [i.isLt]

theorem readPort_cframe_high (s : State) (i : Fin 2) :
    (readPort s 0x000D#16).extractLsb' (8 * i.val) 8 = s.cframe[8 + i.val] := by
  rw [readPort_0x000D, packedWord_byte (by simp)]
  simp [show 8 + i.val < 10 by omega]

theorem readPort_ackbuf_low (s : State) (i : Fin 8) :
    (readPort s 0x0011#16).extractLsb' (8 * i.val) 8 = s.ackbuf[i.val] := by
  rw [readPort_0x0011, packedWord_byte (by simp)]
  simp

theorem readPort_ackbuf_high (s : State) (i : Fin 3) :
    (readPort s 0x0012#16).extractLsb' (8 * i.val) 8 = s.ackbuf[8 + i.val] := by
  rw [readPort_0x0012, packedWord_byte (by simp)]
  simp

/-! The channel pages and the buffer window. -/

/-- Page p at channel k. -/
theorem readPort_channelRow (s : State) (k : Fin 255) {a p : Nat} (ha : a = 0x100 * p) (hp : 1 ≤ p ∧ p ≤ 8) :
    readPort s (BitVec.ofNat 16 (a + k.val)) = channelWord s.channels[k.val] p := by
  have hk := k.isLt
  have haddr : (BitVec.ofNat 16 (a + k.val)).toNat = 0x100 * p + k.val := by
    rw [BitVec.toNat_ofNat, Nat.mod_eq_of_lt (by omega), ha]
  rw [readPort_channel s (by omega) (by omega), haddr, show (0x100 * p + k.val) / 0x100 = p by omega,
    show (0x100 * p + k.val) % 0x100 = k.val by omega, channelPage_of_lt s p hk]

theorem readPort_vPRaw (s : State) (k : Fin 255) :
    readPort s (BitVec.ofNat 16 (0x0100 + k.val)) = sextWord s.channels[k.val].vPRaw :=
  readPort_channelRow s k (p := 1) rfl (by decide)

theorem readPort_vQRaw (s : State) (k : Fin 255) :
    readPort s (BitVec.ofNat 16 (0x0200 + k.val)) = sextWord s.channels[k.val].vQRaw :=
  readPort_channelRow s k (p := 2) rfl (by decide)

theorem readPort_chFlags (s : State) (k : Fin 255) :
    readPort s (BitVec.ofNat 16 (0x0300 + k.val)) = zextWord s.channels[k.val].flags :=
  readPort_channelRow s k (p := 3) rfl (by decide)

theorem readPort_vPMv (s : State) (k : Fin 255) :
    readPort s (BitVec.ofNat 16 (0x0400 + k.val)) = sextWord s.channels[k.val].vPMv :=
  readPort_channelRow s k (p := 4) rfl (by decide)

theorem readPort_vQMv (s : State) (k : Fin 255) :
    readPort s (BitVec.ofNat 16 (0x0500 + k.val)) = sextWord s.channels[k.val].vQMv :=
  readPort_channelRow s k (p := 5) rfl (by decide)

theorem readPort_vMag (s : State) (k : Fin 255) :
    readPort s (BitVec.ofNat 16 (0x0600 + k.val)) = zextWord s.channels[k.val].vMag :=
  readPort_channelRow s k (p := 6) rfl (by decide)

theorem readPort_rhoP (s : State) (k : Fin 255) :
    readPort s (BitVec.ofNat 16 (0x0700 + k.val)) = zextWord s.channels[k.val].rhoP :=
  readPort_channelRow s k (p := 7) rfl (by decide)

theorem readPort_rhoQ (s : State) (k : Fin 255) :
    readPort s (BitVec.ofNat 16 (0x0800 + k.val)) = zextWord s.channels[k.val].rhoQ :=
  readPort_channelRow s k (p := 8) rfl (by decide)

/-- R39: k = 255 of each page. -/
theorem readPort_channel255 (s : State) (p : Fin 8) :
    readPort s (BitVec.ofNat 16 (0x01FF + 0x0100 * p.val)) = 0#64 := by
  have haddr : (BitVec.ofNat 16 (0x01FF + 0x0100 * p.val)).toNat = 0x01FF + 0x0100 * p.val := by
    rw [BitVec.toNat_ofNat, Nat.mod_eq_of_lt (by omega)]
  rw [readPort_channel s (by omega) (by omega), channelPage, if_neg (by omega)]

theorem readPort_rx (s : State) (i : Fin 61440) :
    readPort s (BitVec.ofNat 16 (0x1000 + i.val)) = zextWord (rxPeek s.rx i.val) := by
  have haddr : (BitVec.ofNat 16 (0x1000 + i.val)).toNat = 0x1000 + i.val := by
    rw [BitVec.toNat_ofNat, Nat.mod_eq_of_lt (by omega)]
  rw [readPort_buffer s (by omega), haddr, Nat.add_sub_cancel_left]

/-- R28: a byte of the window at or past RX_LEN reads 0. -/
theorem readPort_rx_eq_ite (s : State) (i : Fin 61440) : readPort s (BitVec.ofNat 16 (0x1000 + i.val)) =
    if i.val < s.rx.length then (s.rx.getD i.val 0#8).setWidth 64 else 0#64 := by
  rw [readPort_rx]
  split
  · rfl
  · rw [rxPeek_of_le (by omega)]
    rfl

theorem readPort_rxLen {s : State} (h : InvBounds s) : (readPort s 0x0018#16).toNat = s.rx.length := by
  have hlen := h.len
  have hcap := h.cap.2
  rw [readPort_0x0018, BitVec.toNat_ofNat, Nat.mod_eq_of_lt (by unfold Config.rxCapMax at hcap; omega)]

theorem readPort_rxCap {s : State} (h : InvBounds s) : (readPort s 0x0019#16).toNat = s.rxCap := by
  have hcap := h.cap.2
  rw [readPort_0x0019, BitVec.toNat_ofNat, Nat.mod_eq_of_lt (by unfold Config.rxCapMax at hcap; omega)]

/-- R27: REQ_LEN. -/
theorem readPort_reqLen (s : State) :
    (readPort s 0x0015#16).toNat = if s.actValid = true then 14 + 8 * s.actCh.toNat else 0 := by
  rw [readPort_0x0015, BitVec.toNat_ofNat, reqLen, requiredLength]
  split <;> omega

/-! The addresses no row lists (R65). -/

/-- The addresses of R39's rows below 0x0100. -/
def frameRows : List Nat :=
  [0x00, 0x01, 0x02, 0x03, 0x04, 0x05, 0x06, 0x08, 0x09, 0x0A, 0x0B, 0x0C, 0x0D, 0x10, 0x11, 0x12, 0x13, 0x14, 0x15,
   0x18, 0x19, 0x1A, 0x1B, 0x1C, 0x20, 0x21, 0x22, 0x23, 0x24, 0x25, 0x28, 0x29, 0x2A, 0x2B, 0x2C, 0x2D]

/-- The rows are at the same addresses in every state. -/
theorem frameMap_rows (s : State) : (frameMap s).map (fun row => row.1.toNat) = frameRows := rfl

theorem frameRows_listed {n : Nat} (h : n ∈ frameRows) : ListedBelowBuffer n := by
  have hrow : n ≤ 0x06 ∨ (0x08 ≤ n ∧ n ≤ 0x0D) ∨ (0x10 ≤ n ∧ n ≤ 0x15) ∨ (0x18 ≤ n ∧ n ≤ 0x1C) ∨
      (0x20 ≤ n ∧ n ≤ 0x25) ∨ (0x28 ≤ n ∧ n ≤ 0x2D) := by
    revert n
    decide
  rcases hrow with h | h | h | h | h | h <;> simp [ListedBelowBuffer, h]

theorem frameMap_lookup_of_not_listed (s : State) {a : ReadAddr} (h : ¬ ListedBelowBuffer a.toNat) :
    (frameMap s).lookup a = none := by
  rw [List.lookup_eq_none_iff]
  intro row hrow
  have hmem : row.1.toNat ∈ frameRows := frameMap_rows s ▸ List.mem_map_of_mem hrow
  rw [bne_iff_ne]
  rintro rfl
  exact h (frameRows_listed hmem)

/-- Pages 0x09 to 0x0F hold no register. -/
theorem channelWord_of_gt (c : Channel) {p : Nat} (h : 8 < p) : channelWord c p = 0#64 := by
  obtain ⟨q, rfl⟩ := Nat.exists_eq_add_of_le' (show 9 ≤ p from h)
  rfl

theorem channelPage_of_not_listed (s : State) {p k : Nat} (hp : 1 ≤ p)
    (h : ¬ ListedBelowBuffer (0x100 * p + k)) : channelPage s p k = 0#64 := by
  unfold channelPage
  split
  · rename_i hk
    refine channelWord_of_gt _ (by_contra fun hp8 => h ?_)
    exact .inr (.inr (.inr (.inr (.inr (.inr ⟨p, k, hp, by omega, hk, rfl⟩)))))
  · rfl

end Sys2Proof.Machine

/-- Settles O13, for the frame rows, the channel pages and the buffer window apart. -/
theorem unlistedAddressesReadZero : Obligations.UnlistedAddressesReadZero := by
  unfold Obligations.UnlistedAddressesReadZero
  refine fun s a => ⟨fun hlt hlisted => ?_, fun hlen => ?_⟩
  · by_cases hpage : a.toNat < 0x100
    · rw [readPort, if_pos hpage, frameMap_lookup_of_not_listed s hlisted]
      rfl
    · rw [readPort_channel s (by omega) hlt]
      apply channelPage_of_not_listed s (by omega)
      rwa [Nat.div_add_mod]
  · rw [readPort_buffer s (by omega), rxPeek_of_le (by omega)]
    rfl

/-- Settles O12, row by row. -/
theorem readMapRows : Obligations.ReadMapRows := by
  unfold Obligations.ReadMapRows
  intro s hs
  have hframe : (readPort s 0x000D#16).toNat < 2 ^ 16 := by
    rw [readPort_0x000D]
    exact packedWord_toNat_lt (m := 2) (by simp) (by decide)
  have hreply : (readPort s 0x0012#16).toNat < 2 ^ 24 := by
    rw [readPort_0x0012]
    exact packedWord_toNat_lt (m := 3) (by simp) (by decide)
  have hstatus : (readPort s 0x0000#16).toNat < 2 ^ 16 := by
    rw [readPort_0x0000, toNat_zextWord s.status]
    exact s.status.isLt
  refine ⟨⟨readPort_status_code s, readPort_status_lastOp s, hstatus⟩, ?_, ?_, ?_,
    ⟨readPort_cframe_low s, readPort_cframe_high s, hframe⟩,
    ⟨?_, readPort_ackbuf_low s, readPort_ackbuf_high s, hreply⟩,
    ⟨readPort_run s, readPort_boardId s, readPort_0x0013_lt s⟩,
    ⟨?_, readPort_reqLen s, readPort_rxLen hs, readPort_rxCap hs⟩, ?_, ?_, ?_, ?_,
    readPort_channel255 s, readPort_rx_eq_ite s⟩
  · simp [readPort_0x0001, readPort_0x0002, readPort_0x0003, readPort_0x0004, readPort_0x0005, readPort_0x0006,
      toNat_zextWord]
  · exact validBits s.cfgValid s.ackOk s.actValid s.frameValid
  · simp [readPort_0x0009, readPort_0x000A, readPort_0x000B, toNat_zextWord]
  · simp [readPort_0x0010, toNat_zextWord]
  · simp [readPort_0x0014, toNat_zextWord]
  · simp [readPort_0x001A, readPort_0x001B, readPort_0x001C, toNat_zextWord]
  · simp [readPort_0x0020, readPort_0x0021, readPort_0x0022, readPort_0x0023, readPort_0x0024, readPort_0x0025,
      toNat_zextWord, toInt_sextWord]
  · simp [readPort_0x0028, readPort_0x0029, readPort_0x002A, readPort_0x002B, readPort_0x002C, readPort_0x002D,
      toNat_zextWord, toInt_sextWord]
  · intro k
    simp only [readPort_vPRaw, readPort_vQRaw, readPort_chFlags, readPort_vPMv, readPort_vQMv, readPort_vMag,
      readPort_rhoP, readPort_rhoQ]
    simp [toNat_zextWord, toInt_sextWord, toInt_zextWord]

end

section
/-! PROOFS. The read port shows the whole state (R37): each register is recovered from the words its rows answer. -/

open Sys2Proof Sys2Proof.Machine

namespace Sys2Proof.Machine

/-- A vector of bytes read in two groups, the first of 8 bytes. -/
theorem byteVector_ext {m : Nat} {v w : Vector Byte (8 + m)} (hlow : ∀ i : Fin 8, v[i.val] = w[i.val])
    (hhigh : ∀ i : Fin m, v[8 + i.val] = w[8 + i.val]) : v = w := by
  ext1 i hi
  rcases Nat.lt_or_ge i 8 with h | h
  · exact hlow ⟨i, h⟩
  · obtain ⟨j, rfl⟩ := Nat.exists_eq_add_of_le h
    exact hhigh ⟨j, by omega⟩

/-- `s` and `t` answer every read alike (R37). -/
def SameReads (s t : State) : Prop := ∀ a : ReadAddr, readPort s a = readPort t a

section
variable {s t : State} (h : SameReads s t)
include h

/-- A register that is a function of one row's word. -/
theorem SameReads.register {α : Type} {f : State → α} {g : ReadData → α} {a : ReadAddr}
    (hrow : ∀ u, g (readPort u a) = f u) : f t = f s := by
  rw [← hrow, ← hrow, h]

/-- A zero-extended row. -/
theorem SameReads.unsigned {n : Nat} {f : State → BitVec n} {a : ReadAddr}
    (hrow : ∀ u, readPort u a = zextWord (f u)) (hn : n ≤ 64 := by decide) : f t = f s :=
  zextWord_inj hn (by rw [← hrow, ← hrow, h])

/-- A sign-extended row. -/
theorem SameReads.signed {n : Nat} {f : State → BitVec n} {a : ReadAddr}
    (hrow : ∀ u, readPort u a = sextWord (f u)) (hn : n ≤ 64 := by decide) : f t = f s :=
  sextWord_inj hn (by rw [← hrow, ← hrow, h])

/-- The four valid bits share a word. -/
theorem SameReads.validBits : t.cfgValid = s.cfgValid ∧ t.ackOk = s.ackOk ∧ t.actValid = s.actValid ∧
    t.frameValid = s.frameValid := by
  obtain ⟨hs0, hs1, hs2, hs3, -⟩ := Machine.validBits s.cfgValid s.ackOk s.actValid s.frameValid
  obtain ⟨ht0, ht1, ht2, ht3, -⟩ := Machine.validBits t.cfgValid t.ackOk t.actValid t.frameValid
  rw [← readPort_0x0008] at hs0 hs1 hs2 hs3 ht0 ht1 ht2 ht3
  rw [h] at hs0 hs1 hs2 hs3
  exact ⟨ht0.symm.trans hs0, ht1.symm.trans hs1, ht2.symm.trans hs2, ht3.symm.trans hs3⟩

theorem SameReads.cframe : t.cframe = s.cframe :=
  byteVector_ext (m := 2) (fun i => h.register fun u => readPort_cframe_low u i)
    (fun i => h.register fun u => readPort_cframe_high u i)

theorem SameReads.ackbuf : t.ackbuf = s.ackbuf :=
  byteVector_ext (m := 3) (fun i => h.register fun u => readPort_ackbuf_low u i)
    (fun i => h.register fun u => readPort_ackbuf_high u i)

theorem SameReads.channels : t.channels = s.channels := by
  ext1 k hk
  exact (Channel.mk.injEq ..).mpr
    ⟨h.signed fun u => readPort_vPRaw u ⟨k, hk⟩, h.signed fun u => readPort_vQRaw u ⟨k, hk⟩,
     h.unsigned fun u => readPort_chFlags u ⟨k, hk⟩, h.signed fun u => readPort_vPMv u ⟨k, hk⟩,
     h.signed fun u => readPort_vQMv u ⟨k, hk⟩, h.unsigned fun u => readPort_vMag u ⟨k, hk⟩,
     h.unsigned fun u => readPort_rhoP u ⟨k, hk⟩, h.unsigned fun u => readPort_rhoQ u ⟨k, hk⟩⟩

/-- R28: RX_LEN is the number of bytes, and each of them stands in the window. -/
theorem SameReads.rx (hs : InvBounds s) (ht : InvBounds t) : t.rx = s.rx := by
  have hlen : t.rx.length = s.rx.length := by rw [← readPort_rxLen hs, ← readPort_rxLen ht, h]
  apply List.ext_getElem hlen
  intro i hi hi'
  have hcap : i < 61440 := lt_of_lt_of_le hi (ht.len.trans ht.cap.2)
  have hbyte : rxPeek t.rx i = rxPeek s.rx i := h.unsigned fun u => readPort_rx u ⟨i, hcap⟩
  rwa [rxPeek_of_lt hi, rxPeek_of_lt hi'] at hbyte

theorem SameReads.rxCap (hs : InvBounds s) (ht : InvBounds t) : t.rxCap = s.rxCap := by
  rw [← readPort_rxCap hs, ← readPort_rxCap ht, h]

end

end Sys2Proof.Machine

/-- Settles O14, register by register in the order of `State`'s fields. -/
theorem readPortShowsTheWholeState : Obligations.ReadPortShowsTheWholeState := by
  unfold Obligations.ReadPortShowsTheWholeState
  intro s t hs ht hreads
  have h : SameReads s t := hreads
  obtain ⟨hcfgValid, hackOk, hactValid, hframeValid⟩ := h.validBits
  exact (State.mk.injEq ..).mpr
    ⟨h.unsigned readPort_0x0000, h.unsigned readPort_0x0001, h.unsigned readPort_0x0002, h.unsigned readPort_0x0003,
     h.unsigned readPort_0x0004, h.unsigned readPort_0x0005, h.unsigned readPort_0x0006, hcfgValid,
     h.unsigned readPort_0x0009, h.unsigned readPort_0x000A, h.unsigned readPort_0x000B, h.cframe,
     h.unsigned readPort_0x0010, h.ackbuf, hackOk, h.register (g := (·.getLsbD 0)) readPort_run,
     h.register readPort_boardId, hactValid, h.unsigned readPort_0x0014, h.rx hs ht, h.unsigned readPort_0x001A,
     h.unsigned readPort_0x001B, h.unsigned readPort_0x001C, hframeValid, h.unsigned readPort_0x0020,
     h.unsigned readPort_0x0021, h.unsigned readPort_0x0022, h.unsigned readPort_0x0023, h.signed readPort_0x0024,
     h.signed readPort_0x0025, h.unsigned readPort_0x0029, h.unsigned readPort_0x002A, h.signed readPort_0x002B,
     h.signed readPort_0x002C, h.unsigned readPort_0x002D, h.unsigned readPort_0x0028, h.channels, h.rxCap hs ht, rfl,
     rfl, rfl⟩

end

section
/-! PROOFS. The reply buffer (R69, R150, R151), and the words of the read port that RXB changes (R68, R170): a command's
updates are taken one register at a time, and each register stands in its own row of the read map. -/

open Sys2Proof Sys2Proof.Machine

namespace Sys2Proof.Machine

/-! Reads after an update. -/

/-- Replacing the row at a key changes the lookup of no other key. -/
theorem lookup_set_of_ne {α β : Type} [BEq α] [LawfulBEq α] {l : List (α × β)} {i : Nat} {a k : α}
    (hkey : l[i]?.map Prod.fst = some k) (ha : a ≠ k) (v : β) : (l.set i (k, v)).lookup a = l.lookup a := by
  induction l generalizing i with
  | nil => rfl
  | cons row l ih =>
    cases i with
    | zero =>
      obtain rfl : row.1 = k := by simpa using hkey
      rw [List.set_cons_zero, List.lookup_cons, List.lookup_cons, beq_false_of_ne ha]
    | succ i =>
      rw [List.getElem?_cons_succ] at hkey
      rw [List.set_cons_succ, List.lookup_cons, List.lookup_cons, ih hkey]

/-- A state that differs from `s` in row `k` below 0x0100, and nowhere that `a` reads in the buffer window, answers a
read of another address as `s` does. -/
theorem readPort_of_row {s t : State} {a k : ReadAddr} {v : ReadData} (i : Nat)
    (hrows : frameMap t = (frameMap s).set i (k, v)) (hkey : (frameMap s)[i]?.map Prod.fst = some k)
    (hchannels : t.channels = s.channels)
    (hwindow : 0x1000 ≤ a.toNat → rxPeek t.rx (a.toNat - 0x1000) = rxPeek s.rx (a.toNat - 0x1000))
    (ha : a ≠ k) : readPort t a = readPort s a := by
  rcases Nat.lt_or_ge a.toNat 0x100 with hrow | hpage
  · rw [readPort, readPort, if_pos hrow, if_pos hrow, hrows, lookup_set_of_ne hkey ha]
  rcases Nat.lt_or_ge a.toNat 0x1000 with hchannel | hbuffer
  · rw [readPort_channel t hpage hchannel, readPort_channel s hpage hchannel, channelPage, channelPage, hchannels]
  · rw [readPort_buffer t hbuffer, readPort_buffer s hbuffer, hwindow hbuffer]

section
variable {a : ReadAddr}

theorem readPort_with_status (s : State) (v : BitVec 16) (h : a ≠ 0x0000#16) :
    readPort { s with status := v } a = readPort s a :=
  readPort_of_row 0 rfl rfl rfl (fun _ => rfl) h

theorem readPort_with_errflags (s : State) (v : BitVec 16) (h : a ≠ 0x0001#16) :
    readPort { s with errflags := v } a = readPort s a :=
  readPort_of_row 1 rfl rfl rfl (fun _ => rfl) h

theorem readPort_with_ovfCount (s : State) (v : BitVec 32) (h : a ≠ 0x001C#16) :
    readPort { s with ovfCount := v } a = readPort s a :=
  readPort_of_row 23 rfl rfl rfl (fun _ => rfl) h

/-- R251: a recorded result shows at STATUS and ERRFLAGS alone. -/
theorem readPort_finish (op : Byte) (c : ResultCode) (s : State) (hstatus : a ≠ 0x0000#16)
    (herrflags : a ≠ 0x0001#16) : readPort (finish op c s) a = readPort s a :=
  (readPort_with_errflags { s with status := statusWord op c } _ herrflags).trans
    (readPort_with_status s _ hstatus)

/-- R251: the code OK raises no flag. -/
theorem readPort_finish_ok (op : Byte) (s : State) (hstatus : a ≠ 0x0000#16) :
    readPort (finish op .ok s) a = readPort s a :=
  readPort_with_status s _ hstatus

/-! The byte that RxAppend stores (R67). -/

theorem rxPeek_append_singleton_length (rx : List Byte) (b : Byte) : rxPeek (rx ++ [b]) rx.length = b := by
  simp [rxPeek]

/-- No index but RX_LEN reads the new byte. -/
theorem rxPeek_append_singleton_of_ne {rx : List Byte} {i : Nat} (h : i ≠ rx.length) (b : Byte) :
    rxPeek (rx ++ [b]) i = rxPeek rx i := by
  rcases Nat.lt_or_gt_of_ne h with hlt | hgt
  · exact rxPeek_append_left hlt [b]
  · rw [rxPeek_of_le hgt.le, rxPeek_of_le (by simpa using hgt)]

/-- R68: RxAppend shows at RX_LEN and at the byte's own address alone. -/
theorem readPort_rxAppend (b : Byte) (s : State) (hbyte : a ≠ BitVec.ofNat 16 (0x1000 + s.rx.length))
    (hlen : a ≠ 0x0018#16) : readPort (rxAppend b s) a = readPort s a := by
  refine readPort_of_row 19 rfl rfl rfl (fun hbuffer => ?_) hlen
  have hindex : a.toNat - 0x1000 ≠ s.rx.length := by
    intro hindex
    apply hbyte
    rw [← hindex, Nat.add_sub_cancel' hbuffer, BitVec.ofNat_toNat, BitVec.setWidth_eq]
  rw [rxAppend_rx, rxPeek_append_singleton_of_ne hindex]

end

end Sys2Proof.Machine

/-- Settles O35: ACKB stores by `ackStore`, which writes no byte past index 10. -/
theorem ackBufferCommands : Obligations.AckBufferCommands := by
  unfold Obligations.AckBufferCommands
  intro s b
  constructor
  · exact ⟨finish 0x20#8 .ok (ackAppend b s), exec_of_effect (.ackb b), ackAppend_ackLen_toNat b s,
      fun i => getElem_ackStore s.ackbuf s.ackLen.toNat b i.val i.isLt, rfl⟩
  · exact ⟨finish 0x21#8 .ok (ackClear s), exec_of_effect .ackclr, fun i => by simp, rfl⟩

/-- Settles O38, for a full buffer and for one with room; within the bounds the byte's address lies in the window. -/
theorem rxbStoresOneByteAtTheEnd : Obligations.RxbStoresOneByteAtTheEnd := by
  unfold Obligations.RxbStoresOneByteAtTheEnd
  intro s b hs
  by_cases hfull : s.rx.length = s.rxCap
  · refine ⟨_, exec_of_effect (.rxbFull b hfull), fun hroom => absurd hfull hroom.ne, ?_⟩
    intro _ a hstatus herrflags hovf
    rw [readPort_finish _ _ _ hstatus herrflags, readPort_with_ovfCount s _ hovf]
  · have hexec := exec_of_effect (.rxbOk b hfull)
    refine ⟨_, hexec, fun hroom => ⟨?_, ?_, ?_⟩, fun h => absurd h hfull⟩
    · have hwindow : s.rx.length < 61440 := lt_of_lt_of_le hroom hs.cap.2
      rw [readPort_rx _ ⟨s.rx.length, hwindow⟩, finish_rx, rxAppend_rx, rxPeek_append_singleton_length, zextWord]
    · rw [readPort_rxLen (hs.exec hexec)]
      simp
    · intro a hbyte hstatus hlen
      rw [readPort_finish_ok _ _ hstatus, readPort_rxAppend b s hbyte hlen]

end

section
/-! PROOFS. The encoder and the decoder agree, and the opcode map selects by the decoder's fields (R84–R88). -/

open Sys2Proof

namespace Sys2Proof

/-! Each format reads back the words it writes (R84, R85). -/

theorem decodeN_encodeN (op : Byte) (i : Instr) : decodeN (encodeN op) i = some i := by
  simp [decodeN, encodeN]

theorem decodeBK_encodeBK (op arg : Byte) (f : Byte → Instr) : decodeBK (encodeBK op arg) f = some (f arg) := by
  simp [decodeBK, encodeBK]

theorem decodeI_encodeI (op : Byte) (imm : BitVec 16) (f : BitVec 16 → Instr) :
    decodeI (encodeI op imm) f = some (f imm) := by
  simp [decodeI, encodeI]

/-- The op field selects the command's row, and the row's format reads the operand back. -/
theorem decode_encode (i : Instr) : decode (encode i) = some i := by
  unfold decode
  rw [opField_encode]
  cases i with
  | setv | setfl | setfh | setimp | setch | setint | rxdrop => exact decodeI_encodeI _ _ _
  | ackb | rxb | cpot | cmagv | crho => exact decodeBK_encodeBK _ _ _
  | _ => exact decodeN_encodeN _ _

/-! A row's mask, field by field. -/

/-- A word is its three fields. -/
theorem word_ext_iff {w v : Word} :
    w = v ↔ opField w = opField v ∧ argField w = argField v ∧ immField w = immField v := by
  constructor
  · rintro rfl
    exact ⟨rfl, rfl, rfl⟩
  · rintro ⟨hop, harg, himm⟩
    rw [← wordOf_fields w, ← wordOf_fields v, hop, harg, himm]

theorem setWidth_eq_wordOf (op : Byte) : op.setWidth 32 = wordOf 0#16 0#8 op := by
  rw [wordOf, BitVec.setWidth_eq_append (by decide : 8 ≤ 32)]
  rfl

/-- `(w & mask) == op` with the mask given by its fields. -/
theorem and_wordOf_eq_iff (w : Word) (imm : BitVec 16) (arg mask op : Byte) :
    w &&& wordOf imm arg mask = op.setWidth 32 ↔
      opField w &&& mask = op ∧ argField w &&& arg = 0#8 ∧ immField w &&& imm = 0#16 := by
  have hop : opField (w &&& wordOf imm arg mask) = opField w &&& opField (wordOf imm arg mask) :=
    BitVec.extractLsb'_and
  have harg : argField (w &&& wordOf imm arg mask) = argField w &&& argField (wordOf imm arg mask) :=
    BitVec.extractLsb'_and
  have himm : immField (w &&& wordOf imm arg mask) = immField w &&& immField (wordOf imm arg mask) :=
    BitVec.extractLsb'_and
  rw [setWidth_eq_wordOf, word_ext_iff, hop, harg, himm]
  simp only [opField_wordOf, argField_wordOf, immField_wordOf]

/-! R84's masks: all of op, and the fields that the format reserves. -/

theorem formatMask_N : formatMask .N = wordOf (BitVec.allOnes 16) (BitVec.allOnes 8) (BitVec.allOnes 8) := rfl

theorem formatMask_B : formatMask .B = wordOf (BitVec.allOnes 16) 0#8 (BitVec.allOnes 8) := rfl

theorem formatMask_K : formatMask .K = wordOf (BitVec.allOnes 16) 0#8 (BitVec.allOnes 8) := rfl

theorem formatMask_I : formatMask .I = wordOf 0#16 (BitVec.allOnes 8) (BitVec.allOnes 8) := rfl

/-- R84: the fields that a format reserves are 0. -/
def ReservedZero (w : Word) : Format → Prop
  | .N => argField w = 0#8 ∧ immField w = 0#16
  | .B | .K => immField w = 0#16
  | .I => argField w = 0#8

/-- R86: `(w & mask) == op` asks for the row's op and for zeros in the fields that its format reserves. -/
theorem selectsRow_iff {w : Word} {row : OpRow} :
    selectsRow w row = true ↔ opField w = row.op ∧ ReservedZero w row.format := by
  obtain ⟨name, op, f⟩ := row
  rw [selectsRow, beq_iff_eq]
  cases f <;>
    simp only [formatMask_N, formatMask_B, formatMask_K, formatMask_I, and_wordOf_eq_iff, BitVec.and_allOnes,
      BitVec.and_zero, true_and, and_true, ReservedZero]

/-- R86: no two rows share an op. -/
theorem opcodeMap_op_inj {r row : OpRow} (hr : r ∈ opcodeMap) (hrow : row ∈ opcodeMap) (h : r.op = row.op) :
    r = row :=
  List.inj_on_of_nodup_map (f := OpRow.op) (by decide) hr hrow h

/-- A word that selects a row decodes: the row's op chooses its format's arm, whose reserved fields are 0. -/
theorem decode_ne_none_of_selectsRow {w : Word} {row : OpRow} (hrow : row ∈ opcodeMap)
    (h : selectsRow w row = true) : decode w ≠ none := by
  obtain ⟨hop, hreserved⟩ := selectsRow_iff.mp h
  unfold decode
  rw [hop]
  fin_cases hrow <;> simpa [ReservedZero, decodeN, decodeBK, decodeI] using hreserved

open Laws.FixedBits in
/-- Every command's word selects a row, the one with its op. -/
theorem fixedBits : ∀ i : Instr, Laws.FixedBits.Statement i
  | .nop => nop | .reset => reset | .errclr => errclr
  | .setv imm => setv imm | .setfl imm => setfl imm | .setfh imm => setfh imm
  | .setimp imm => setimp imm | .setch imm => setch imm | .setint imm => setint imm | .enc => enc
  | .ackb b => ackb b | .ackclr => ackclr | .vack => vack
  | .rxb b => rxb b | .rxclr => rxclr | .rxdrop imm => rxdrop imm | .val => val
  | .cbat => cbat | .ccur => ccur | .cmagi => cmagi
  | .cpot k => cpot k | .cmagv k => cmagv k | .crho k => crho k | .call => call

end Sys2Proof

/-- Settles O2: each format reads back the words it writes. -/
theorem decodeOfEncode : Obligations.DecodeOfEncode := by
  unfold Obligations.DecodeOfEncode
  exact decode_encode

/-- Settles O1: each word is its command's encoding. -/
theorem opcodeMapWordsDecode : Obligations.OpcodeMapWordsDecode := by
  unfold Obligations.OpcodeMapWordsDecode
  exact ⟨⟨decode_encode .nop, decode_encode .reset, decode_encode .errclr⟩,
    ⟨decode_encode (.setv 10000#16), decode_encode (.setfl 0x8000#16), decode_encode (.setfh 1000#16),
      decode_encode (.setimp 10#16), decode_encode (.setch 1#16), decode_encode (.setint 100#16), decode_encode .enc⟩,
    ⟨decode_encode (.ackb 0xAF#8), decode_encode .ackclr, decode_encode .vack⟩,
    ⟨decode_encode (.rxb 0x81#8), decode_encode .rxclr, decode_encode (.rxdrop 30#16), decode_encode .val⟩,
    ⟨decode_encode .cbat, decode_encode .ccur, decode_encode .cmagi, decode_encode (.cpot 254#8),
      decode_encode (.cmagv 1#8), decode_encode (.crho 255#8), decode_encode .call⟩⟩

/-- Settles O3: a word that decodes is its command's, whose row is the only one with its op; a word that does not
decode selects no row. -/
theorem decodeSelectsExactlyOneRow : Obligations.DecodeSelectsExactlyOneRow := by
  unfold Obligations.DecodeSelectsExactlyOneRow
  intro w
  cases hdec : decode w with
  | some i =>
    have hword := encode_of_decode hdec
    obtain ⟨row, hrow, hop, hmask⟩ := fixedBits i
    rw [hword] at hop hmask
    refine .inl ⟨row, hrow, i, beq_iff_eq.mpr hmask, fun r hr hsel => ?_, rfl, hword⟩
    obtain ⟨hop', -⟩ := selectsRow_iff.mp hsel
    exact opcodeMap_op_inj hr hrow (hop'.symm.trans hop.symm)
  | none =>
    refine .inr ⟨fun row hrow => ?_, rfl⟩
    rw [Bool.eq_false_iff]
    exact fun hsel => decode_ne_none_of_selectsRow hrow hsel hdec

end

section
/-! PROOFS. The assembler's one-line expansions (R89, R90). -/

open Sys2Proof Sys2Proof.Machine

namespace Sys2Proof.Machine

/-! An operand that is a field's value is in range, and the command holds it whole. -/

theorem asmI_toNat (imm : BitVec 16) (f : BitVec 16 → Instr) : asmI [imm.toNat] f = some [f imm] := by
  rw [asmI, if_pos (by omega), BitVec.ofNat_toNat, BitVec.setWidth_eq]

/-- R90: SETF sets the low half of q, then the high half. -/
theorem asmSetf_toNat (q : BitVec 32) :
    asmSetf [q.toNat] = some [.setfl (q.extractLsb' 0 16), .setfh (q.extractLsb' 16 16)] := by
  rw [asmSetf, if_pos q.isLt, BitVec.extractLsb', BitVec.extractLsb', Nat.shiftRight_zero,
    Nat.shiftRight_eq_div_pow]

theorem asmSetfi_toNat (n : BitVec 16) : asmSetfi [n.toNat] = some [.setfl 0#16, .setfh n] := by
  rw [asmSetfi, if_pos (by omega), BitVec.ofNat_toNat, BitVec.setWidth_eq]

/-- R90: RXBS and ACKBS give one command for each byte, in order. -/
theorem asmBytes_map_toNat {bs : List Byte} (h : bs ≠ []) (f : Byte → Instr) :
    asmBytes (bs.map BitVec.toNat) f = some (bs.map f) := by
  have hrange : ∀ v ∈ bs.map BitVec.toNat, v ≤ 255 := by
    intro v hv
    obtain ⟨b, -, rfl⟩ := List.mem_map.mp hv
    omega
  rw [asmBytes, if_pos ⟨by simpa using h, hrange⟩, List.map_map]
  simp

/-- R90: CONFIG is its six lines, one after another. -/
theorem asmConfig_toNat (v i c n : BitVec 16) (q : BitVec 32) :
    asmConfig [v.toNat, q.toNat, i.toNat, c.toNat, n.toNat] =
      some [.setv v, .setfl (q.extractLsb' 0 16), .setfh (q.extractLsb' 16 16), .setimp i, .setch c, .setint n,
        .enc] := by
  simp only [asmConfig, asmI_toNat, asmSetf_toNat]
  rfl

end Sys2Proof.Machine

/-- Settles O4; the three one-operand mnemonics take R89's ranges by definition. -/
theorem pseudoInstructionsExpand : Obligations.PseudoInstructionsExpand := by
  unfold Obligations.PseudoInstructionsExpand
  exact ⟨fun _ => rfl, fun _ => rfl, fun _ => rfl, asmSetf_toNat, asmSetfi_toNat,
    fun _ hbs => ⟨asmBytes_map_toNat hbs .rxb, asmBytes_map_toNat hbs .ackb⟩, asmConfig_toNat⟩

end

section
/-! PROOFS. The layout of the ConfigFrame (R80, R129). -/

open Sys2Proof Sys2Proof.Machine

namespace Sys2Proof.Machine

/-- R100: a seven-bit group is seven bits of the register, under a bit 7 of 0. -/
theorem ofNat_g7 {w : Nat} (v : BitVec w) (j : Nat) :
    BitVec.ofNat 8 (g7 v.toNat j) = 0#1 ++ v.extractLsb' (7 * j) 7 := by
  apply BitVec.eq_of_toNat_eq
  have hlt : g7 v.toNat j < 2 ^ 7 := Nat.lt_succ_of_le Nat.and_le_right
  rw [BitVec.toNat_ofNat, Nat.mod_eq_of_lt (by omega), BitVec.toNat_append, BitVec.extractLsb'_toNat]
  simp [g7, Nat.and_two_pow_sub_one_eq_mod _ 7]

/-- R80: byte 0 holds the low six bits of UX between two bits of 1, and byte 1 the other two. -/
theorem packFrame_ux (ux : BitVec 8) :
    BitVec.ofNat 8 (0x81 ||| ((ux.toNat &&& 0x3F) <<< 1)) = 1#1 ++ ux.extractLsb' 0 6 ++ 1#1 ∧
      BitVec.ofNat 8 ((ux.toNat &&& 0xC0) >>> 6) = 0#6 ++ ux.extractLsb' 6 2 := by
  decide +revert

/-- R80: FX has 25 bits, so the last of its groups has four. -/
theorem extractLsb'_fx_top (fx : BitVec 25) : 0#1 ++ fx.extractLsb' 21 7 = 0#4 ++ fx.extractLsb' 21 4 := by
  apply BitVec.eq_of_toNat_eq
  rw [BitVec.toNat_append, BitVec.toNat_append, BitVec.extractLsb'_toNat, BitVec.extractLsb'_toNat,
    Nat.shiftRight_eq_div_pow]
  simp
  omega

/-- R129: ENC that answers OK leaves the frame of its codes, with the staged counts. -/
theorem execEnc_ok_cframe {s t : State} (h : exec .enc s = .next t) (hcode : statusCode t = 0#8) :
    t.cframe = packFrame t.ux.toNat t.fx.toNat s.cfgImp.toNat (s.cfgCh.setWidth 8).toNat s.cfgInt.toNat := by
  obtain ⟨c, u, hu, rfl⟩ := exec_next_effect h (by decide)
  obtain rfl := (statusCode_finish_eq_iff _ c .ok u).mp hcode
  cases hu with
  | encOk ux fx hcheck => exact latchConfig_cframe_eq_packFrame hcheck

end Sys2Proof.Machine

/-- Settles O33: the bytes of the frame that ENC packs, each a group of a register. -/
theorem configFrameLayout : Obligations.ConfigFrameLayout := by
  unfold Obligations.ConfigFrameLayout
  intro s t h hcode
  have hch : (s.cfgCh.setWidth 8).extractLsb' 0 7 = s.cfgCh.extractLsb' 0 7 :=
    BitVec.extractLsb'_setWidth_of_le (by decide)
  rw [execEnc_ok_cframe h hcode, ← hch, ← extractLsb'_fx_top]
  obtain ⟨h0, h1⟩ := packFrame_ux t.ux
  exact ⟨h0, h1, ofNat_g7 t.fx 0, ofNat_g7 t.fx 1, ofNat_g7 t.fx 2, ofNat_g7 t.fx 3, ofNat_g7 s.cfgImp 0,
    ofNat_g7 (s.cfgCh.setWidth 8) 0, ofNat_g7 s.cfgInt 0, ofNat_g7 s.cfgInt 1⟩

end

section
/-! PROOFS. The validator meets the device's encoder (R82, R83, R100–R106, R174, R176). -/

open Sys2Proof Sys2Proof.Machine Sys2Proof.Claims

namespace Sys2Proof.Machine

/-! The bytes of one field (R104). -/

/-- The unsigned code that `EncField` splits into groups: a negative 28-bit value in two's complement. -/
def fieldCode (v : Int) (n : Nat) : Nat := (if n = 4 ∧ v < 0 then v + 2 ^ 28 else v).toNat

/-- Byte i of `EncField(v, n)`: the tag bit on the first byte, and group i below it. -/
def fieldByte (v : Int) (n i : Nat) : Byte :=
  BitVec.ofNat 8 (if i = 0 then 0x80 ||| g7 (fieldCode v n) 0 else g7 (fieldCode v n) i)

theorem encField_eq_map (v : Int) (n : Nat) : encField v n = (List.range n).map (fieldByte v n) := rfl

@[simp] theorem length_encField (v : Int) (n : Nat) : (encField v n).length = n := by
  rw [encField_eq_map, List.length_map, List.length_range]

theorem g7_eq_div_mod (v j : Nat) : g7 v j = v / 128 ^ j % 128 := by
  rw [g7, Nat.shiftRight_eq_div_pow, Nat.pow_mul]
  exact Nat.and_two_pow_sub_one_eq_mod _ 7

/-- A tag bit above a group is a sum. -/
theorem tagBit_or_of_lt {g : Nat} (h : g < 128) : 0x80 ||| g = 0x80 + g :=
  (Nat.two_pow_add_eq_or_of_lt (i := 7) h 1).symm

theorem fieldByte_toNat (v : Int) (n i : Nat) :
    (fieldByte v n i).toNat = (if i = 0 then 128 else 0) + fieldCode v n / 128 ^ i % 128 := by
  have hlt : fieldCode v n / 128 ^ i % 128 < 128 := Nat.mod_lt _ (by decide)
  rw [fieldByte, BitVec.toNat_ofNat]
  split
  · rename_i h
    subst h
    rw [g7_eq_div_mod, tagBit_or_of_lt hlt, Nat.mod_eq_of_lt (by omega)]
  · rw [g7_eq_div_mod, Nat.mod_eq_of_lt (by omega), Nat.zero_add]

/-- R83: bit 7 is the tag. -/
theorem fieldByte_tag (v : Int) (n i : Nat) : (fieldByte v n i).getLsbD 7 = decide (i = 0) := by
  have hlt : fieldCode v n / 128 ^ i % 128 < 128 := Nat.mod_lt _ (by decide)
  rw [BitVec.getLsbD, fieldByte_toNat, Nat.testBit_eq_decide_div_mod_eq, decide_eq_decide]
  split <;> omega

/-- R61: bits [6:0] are the group. -/
theorem fieldByte_payload (v : Int) (n i : Nat) :
    (fieldByte v n i).toNat &&& 0x7F = fieldCode v n / 128 ^ i % 128 := by
  rw [fieldByte_toNat, show (0x7F : Nat) = 2 ^ 7 - 1 from rfl, Nat.and_two_pow_sub_one_eq_mod]
  split <;> omega

/-! Where a field stands in a buffer. -/

/-- The `n` bytes of the buffer from offset `o` on are the encoding of `v`. -/
def FieldAt (bs : List Byte) (o n : Nat) (v : Int) : Prop := ∀ i < n, rxPeek bs (o + i) = fieldByte v n i

theorem fieldAt_encField_append (v : Int) (n : Nat) (rest : List Byte) : FieldAt (encField v n ++ rest) 0 n v := by
  intro i hi
  rw [Nat.zero_add, rxPeek_append_left (by simpa using hi), rxPeek_of_lt (by simpa using hi)]
  simp [encField_eq_map]

/-- Bytes in front move a field up. -/
theorem FieldAt.append {bs : List Byte} {o n : Nat} {v : Int} (h : FieldAt bs o n v) (front : List Byte) :
    FieldAt (front ++ bs) (front.length + o) n v := by
  intro i hi
  rw [← h i hi, rxPeek, rxPeek, List.getD_append_right _ _ _ _ (by omega)]
  congr 1
  omega

/-- R101: the groups read so far are the low bits of the code. -/
theorem FieldAt.decU {bs : List Byte} {o n : Nat} {v : Int} (h : FieldAt bs o n v) {m : Nat} (hm : m ≤ n) :
    decU bs o m = fieldCode v n % 128 ^ m := by
  induction m with
  | zero => simp [Machine.decU, Nat.mod_one]
  | succ m ih =>
    rw [Machine.decU, ih (by omega), h m (by omega), fieldByte_payload, Nat.shiftLeft_eq, Nat.pow_mul,
      Nat.mod_pow_succ, Nat.mul_comm]

/-- R102, R104: a 14-bit field decodes to the value sent. -/
theorem FieldAt.decU14 {bs : List Byte} {o v : Nat} (h : FieldAt bs o 2 v) (hv : FieldU14 v) : decU14 bs o = v := by
  rw [Machine.decU14, h.decU le_rfl, fieldCode]
  exact Nat.mod_eq_of_lt hv

/-- R103, R104: a 28-bit field decodes to the signed value sent. -/
theorem FieldAt.decS28 {bs : List Byte} {o : Nat} {v : Int} (h : FieldAt bs o 4 v) (hv : FieldS28 v) :
    decS28 bs o = v := by
  obtain ⟨hlo, hhi⟩ := hv
  simp only [Machine.decS28, h.decU le_rfl, fieldCode, true_and]
  split <;> split <;> omega

/-! The fields of a frame (R82). -/

/-- The fields of `f` stand at R82's offsets for n channels. -/
structure FrameAt (bs : List Byte) (n : Nat) (f : FrameFields) : Prop where
  measureCount : FieldAt bs 0 2 f.measureCount
  recBattery : FieldAt bs 2 2 f.recBatteryCode
  emBattery : FieldAt bs 4 2 f.emBatteryCode
  phaseCurrent : FieldAt bs 6 4 f.phaseCurrentCode
  quadCurrent : FieldAt bs 10 4 f.quadCurrentCode
  phasePotential : ∀ k < n, FieldAt bs (14 + 8 * k) 4 (f.phasePotentialCode.getD k 0)
  quadPotential : ∀ k < n, FieldAt bs (18 + 8 * k) 4 (f.quadPotentialCode.getD k 0)

theorem FieldAt.after_field {bs : List Byte} {o n : Nat} {v : Int} (h : FieldAt bs o n v) (w : Int) (m : Nat) :
    FieldAt (encField w m ++ bs) (m + o) n v := by
  simpa using h.append (encField w m)

/-- MEAS_COUNT and the two battery codes take the first six bytes of a frame. -/
theorem FieldAt.after_unsigned {bs : List Byte} {o n : Nat} {v : Int} (h : FieldAt bs o n v) (a b c : Int) :
    FieldAt (encField a 2 ++ (encField b 2 ++ (encField c 2 ++ bs))) (6 + o) n v := by
  rw [show 6 + o = 2 + (2 + (2 + o)) by omega]
  exact ((h.after_field c 2).after_field b 2).after_field a 2

/-- The channels come after these and the two currents. -/
theorem FieldAt.after_header {bs : List Byte} {o n : Nat} {v : Int} (h : FieldAt bs o n v) (a b c ip iq : Int) :
    FieldAt (encField a 2 ++ (encField b 2 ++ (encField c 2 ++ (encField ip 4 ++ (encField iq 4 ++ bs)))))
      (14 + o) n v := by
  rw [show 14 + o = 6 + (4 + (4 + o)) by omega]
  exact ((h.after_field iq 4).after_field ip 4).after_unsigned a b c

@[simp] theorem length_encChannel (p q : Int) : (encChannel p q).length = 8 := by simp [encChannel]

theorem length_encChannels {ps qs : List Int} (h : ps.length = qs.length) :
    (List.zipWith encChannel ps qs).flatten.length = 8 * ps.length := by
  induction ps generalizing qs with
  | nil => simp
  | cons p ps ih =>
    cases qs with
    | nil => simp at h
    | cons q qs =>
      have := ih (Nat.succ.inj h)
      simp only [List.zipWith_cons_cons, List.flatten_cons, List.length_append, length_encChannel, List.length_cons]
      omega

/-- R82: channel k's two fields, after those of the channels before it. -/
theorem fieldAt_encChannels {ps qs : List Int} (h : ps.length = qs.length) (rest : List Byte) {k : Nat}
    (hk : k < ps.length) :
    FieldAt ((List.zipWith encChannel ps qs).flatten ++ rest) (8 * k) 4 (ps.getD k 0) ∧
      FieldAt ((List.zipWith encChannel ps qs).flatten ++ rest) (4 + 8 * k) 4 (qs.getD k 0) := by
  induction ps generalizing qs k with
  | nil => simp at hk
  | cons p ps ih =>
    cases qs with
    | nil => simp at h
    | cons q qs =>
      rw [List.zipWith_cons_cons, List.flatten_cons, List.append_assoc]
      cases k with
      | zero =>
        rw [encChannel, List.append_assoc]
        exact ⟨fieldAt_encField_append p 4 _, (fieldAt_encField_append q 4 _).after_field p 4⟩
      | succ k =>
        obtain ⟨hp, hq⟩ := ih (Nat.succ.inj h) (Nat.lt_of_succ_lt_succ hk)
        have hp' := hp.append (encChannel p q)
        have hq' := hq.append (encChannel p q)
        rw [length_encChannel] at hp' hq'
        rw [show 8 * (k + 1) = 8 + 8 * k by omega, show 4 + (8 + 8 * k) = 8 + (4 + 8 * k) by omega]
        exact ⟨hp', hq'⟩

theorem FrameFields.Fits.lengths {f : FrameFields} {n : Nat} (h : f.Fits n) :
    f.phasePotentialCode.length = n ∧ f.quadPotentialCode.length = n := by
  obtain ⟨-, -, -, -, -, hphase, hquad, -, -⟩ := h
  exact ⟨hphase, hquad⟩

theorem frameAt_encFrame_append {f : FrameFields} {n : Nat} (h : f.Fits n) (rest : List Byte) :
    FrameAt (encFrame f ++ rest) n f := by
  obtain ⟨hp, hq⟩ := h.lengths
  have hchannels := fun k (hk : k < n) => fieldAt_encChannels (hp.trans hq.symm) rest (hp.symm ▸ hk)
  simp only [encFrame, List.append_assoc]
  constructor
  · exact fieldAt_encField_append _ 2 _
  · exact (fieldAt_encField_append _ 2 _).after_field _ 2
  · exact ((fieldAt_encField_append _ 2 _).after_field _ 2).after_field _ 2
  · exact (fieldAt_encField_append _ 4 _).after_unsigned _ _ _
  · exact ((fieldAt_encField_append _ 4 _).after_field _ 4).after_unsigned _ _ _
  · intro k hk
    exact (hchannels k hk).1.after_header _ _ _ _ _
  · intro k hk
    rw [show 18 + 8 * k = 14 + (4 + 8 * k) by omega]
    exact (hchannels k hk).2.after_header _ _ _ _ _

theorem length_encFrame {f : FrameFields} {n : Nat} (h : f.Fits n) : (encFrame f).length = requiredLength n := by
  obtain ⟨hp, hq⟩ := h.lengths
  simp only [encFrame, List.length_append, length_encField, length_encChannels (hp.trans hq.symm), hp, requiredLength]

/-! Extraction (R106) and the tags (R83, R105) of a frame. -/

theorem FrameFields.Fits.phasePotential {f : FrameFields} {n : Nat} (h : f.Fits n) {k : Nat} (hk : k < n) :
    FieldS28 (f.phasePotentialCode.getD k 0) := by
  obtain ⟨-, -, -, -, -, hlen, -, hrange, -⟩ := h
  rw [List.getD_eq_getElem _ _ (hlen.symm ▸ hk)]
  exact hrange _ (List.getElem_mem _)

theorem FrameFields.Fits.quadPotential {f : FrameFields} {n : Nat} (h : f.Fits n) {k : Nat} (hk : k < n) :
    FieldS28 (f.quadPotentialCode.getD k 0) := by
  obtain ⟨-, -, -, -, -, -, hlen, -, hrange⟩ := h
  rw [List.getD_eq_getElem _ _ (hlen.symm ▸ hk)]
  exact hrange _ (List.getElem_mem _)

theorem map_range_eq_of_getD {g : Nat → Int} {l : List Int} {n : Nat} (hlen : l.length = n)
    (h : ∀ k < n, g k = l.getD k 0) : (List.range n).map g = l := by
  apply List.ext_getElem
  · simp [hlen]
  · intro k _ hk
    rw [List.getElem_map, List.getElem_range, h k (hlen ▸ hk), List.getD_eq_getElem _ _ hk]

theorem FrameAt.extract {bs : List Byte} {n : Nat} {f : FrameFields} (h : FrameAt bs n f) (hf : f.Fits n) :
    extract bs n = f := by
  have hphase : (List.range n).map (fun k => Machine.decS28 bs (14 + 8 * k)) = f.phasePotentialCode :=
    map_range_eq_of_getD hf.lengths.1 fun k hk => (h.phasePotential k hk).decS28 (hf.phasePotential hk)
  have hquad : (List.range n).map (fun k => Machine.decS28 bs (18 + 8 * k)) = f.quadPotentialCode :=
    map_range_eq_of_getD hf.lengths.2 fun k hk => (h.quadPotential k hk).decS28 (hf.quadPotential hk)
  obtain ⟨hmeasure, hrec, hem, hip, hiq, -⟩ := hf
  rw [Machine.extract, h.measureCount.decU14 hmeasure, h.recBattery.decU14 hrec, h.emBattery.decU14 hem,
    h.phaseCurrent.decS28 hip, h.quadCurrent.decS28 hiq, hphase, hquad]

theorem expectedTag_iff (i n : Nat) : expectedTag i n = true ↔ FieldStart i n := by
  simp only [expectedTag, startOffsets, FieldStart, List.contains_iff_mem, List.mem_append, List.mem_cons,
    List.not_mem_nil, or_false, List.mem_map, List.mem_range]
  constructor
  · rintro ((h | ⟨k, hk, rfl⟩) | ⟨k, hk, rfl⟩)
    · omega
    · exact .inr (.inr (.inr (.inr (.inr ⟨k, hk, .inl rfl⟩))))
    · exact .inr (.inr (.inr (.inr (.inr ⟨k, hk, .inr rfl⟩))))
  · rintro (h | h | h | h | h | ⟨k, hk, h | h⟩)
    iterate 5 exact .inl (.inl (by omega))
    · exact .inl (.inr ⟨k, hk, h.symm⟩)
    · exact .inr ⟨k, hk, h.symm⟩

/-- Inside the frame, the channels' fields start at every fourth byte from 14 on. -/
theorem fieldStart_iff_mod {i n : Nat} (hi : i < 14 + 8 * n) :
    FieldStart i n ↔ i = 0 ∨ i = 2 ∨ i = 4 ∨ i = 6 ∨ i = 10 ∨ (14 ≤ i ∧ (i - 14) % 4 = 0) := by
  constructor
  · rintro (h | h | h | h | h | ⟨k, -, h | h⟩) <;> omega
  · rintro (h | h | h | h | h | ⟨hge, hmod⟩)
    iterate 5 exact (by unfold FieldStart; omega)
    exact .inr (.inr (.inr (.inr (.inr ⟨(i - 14) / 8, by omega, by omega⟩))))

/-- R105: in a field, the expected tag is on its first byte alone. -/
theorem FieldAt.tag_eq_expectedTag {bs : List Byte} {o m i n : Nat} {v : Int} (h : FieldAt bs o m v)
    (hi : o ≤ i ∧ i < o + m) (hstart : FieldStart i n ↔ i = o) :
    (rxPeek bs i).getLsbD 7 = expectedTag i n := by
  obtain ⟨j, rfl⟩ := Nat.exists_eq_add_of_le hi.1
  rw [h j (by omega), fieldByte_tag, Bool.eq_iff_iff, expectedTag_iff, hstart, decide_eq_true_iff]
  omega

theorem FrameAt.tagOk {bs : List Byte} {n : Nat} {f : FrameFields} (h : FrameAt bs n f) : tagOk bs n = true := by
  rw [tagOk_iff]
  intro i hi
  have hstart := fieldStart_iff_mod hi
  have hfield : i < 2 ∨ (2 ≤ i ∧ i < 4) ∨ (4 ≤ i ∧ i < 6) ∨ (6 ≤ i ∧ i < 10) ∨ (10 ≤ i ∧ i < 14) ∨ 14 ≤ i := by omega
  rcases hfield with hr | hr | hr | hr | hr | hr
  · exact h.measureCount.tag_eq_expectedTag (by omega) (hstart.trans (by omega))
  · exact h.recBattery.tag_eq_expectedTag (by omega) (hstart.trans (by omega))
  · exact h.emBattery.tag_eq_expectedTag (by omega) (hstart.trans (by omega))
  · exact h.phaseCurrent.tag_eq_expectedTag (by omega) (hstart.trans (by omega))
  · exact h.quadCurrent.tag_eq_expectedTag (by omega) (hstart.trans (by omega))
  · unfold requiredLength at hi
    rcases Nat.lt_or_ge i (18 + 8 * ((i - 14) / 8)) with hhalf | hhalf
    · exact (h.phasePotential ((i - 14) / 8) (by omega)).tag_eq_expectedTag (by omega) (hstart.trans (by omega))
    · exact (h.quadPotential ((i - 14) / 8) (by omega)).tag_eq_expectedTag (by omega) (hstart.trans (by omega))

/-! VAL on a conforming frame (R176). -/

theorem verdict_encFrame_append {f : FrameFields} {n : Nat} (h : f.Fits n) (rest : List Byte) :
    verdict (encFrame f ++ rest) n = .valid := by
  rw [verdict_valid_iff, List.length_append, length_encFrame h]
  exact ⟨Nat.le_add_right _ _, (frameAt_encFrame_append h rest).tagOk⟩

theorem toInt_ofInt_of_fieldS28 {v : Int} (h : FieldS28 v) : (BitVec.ofInt 28 v).toInt = v :=
  BitVec.toInt_ofInt_eq_self (by decide) h.1 h.2

theorem toNat_ofNat_of_fieldU14 {v : Nat} (h : FieldU14 v) : (BitVec.ofNat 14 v).toNat = v :=
  BitVec.toNat_ofNat v 14 ▸ Nat.mod_eq_of_lt h

/-- R176: VAL on the encoding of `f` loads `f`. -/
theorem exec_val_encFrame {s : State} {f : FrameFields} {rest : List Byte} (hact : s.actValid = true)
    (h : f.Fits s.actCh.toNat) (hrx : s.rx = encFrame f ++ rest) :
    exec .val s = .next (finish 0x33#8 .ok (loadFrame f s)) := by
  have hverdict := verdict_encFrame_append h rest
  have hextract := (frameAt_encFrame_append h rest).extract h
  rw [← hrx] at hverdict hextract
  rw [exec_of_effect (.valOk hact hverdict), hextract, opcodeOf]

end Sys2Proof.Machine

/-- Settles O41: VAL loads the fields that were encoded, and each fits its register. -/
theorem conformingFrameIsExtracted : Obligations.ConformingFrameIsExtracted := by
  unfold Obligations.ConformingFrameIsExtracted
  intro s f rest hact hf hrx
  refine ⟨_, exec_val_encFrame hact hf hrx, statusCode_finish _ _ _, rfl, ?_⟩
  have hphase := fun k (hk : k < s.actCh.toNat) => hf.phasePotential hk
  have hquad := fun k (hk : k < s.actCh.toNat) => hf.quadPotential hk
  obtain ⟨hmeasure, hrec, hem, hip, hiq, -⟩ := hf
  refine ⟨toNat_ofNat_of_fieldU14 hmeasure, toNat_ofNat_of_fieldU14 hrec, toNat_ofNat_of_fieldU14 hem,
    toInt_ofInt_of_fieldS28 hip, toInt_ofInt_of_fieldS28 hiq, fun k hk => ?_⟩
  rw [finish_channels, loadFrame_channels, getElem_mapChannels, loadChannel, if_pos hk]
  exact ⟨toInt_ofInt_of_fieldS28 (hphase k hk), toInt_ofInt_of_fieldS28 (hquad k hk)⟩

end

section
/-! PROOFS. What a field decodes to (R101–R104), and which bits of a buffer the verdict reads (R105, R174). -/

open Sys2Proof Sys2Proof.Machine Sys2Proof.Claims

namespace Sys2Proof.Machine

/-- R103: subtracting 2^28 above 2^27 − 1 is the sign extension of the 28 bits. -/
theorem decS28_eq_toInt (bs : List Byte) (o : Nat) : decS28 bs o = (BitVec.ofNat 28 (decU bs o 4)).toInt := by
  have hraw : decU bs o 4 < 2 ^ 28 := decU_lt bs o 4
  rw [decS28, BitVec.toInt_eq_toNat_cond, BitVec.toNat_ofNat, Nat.mod_eq_of_lt hraw]
  split <;> split <;> omega

/-! One byte of the buffer replaced. -/

theorem rxPeek_set_self {rx : List Byte} {i : Nat} (h : i < rx.length) (b : Byte) : rxPeek (rx.set i b) i = b := by
  simp [rxPeek, h]

theorem rxPeek_set_of_ne {rx : List Byte} {i j : Nat} (h : j ≠ i) (b : Byte) :
    rxPeek (rx.set i b) j = rxPeek rx j := by
  simp [rxPeek, List.getElem?_set_ne h.symm]

/-! The verdict reads the length and the tags alone (R105, R174). -/

theorem tagOk_congr {xs ys : List Byte} (htag : ∀ j, (rxPeek ys j).getLsbD 7 = (rxPeek xs j).getLsbD 7) (n : Nat) :
    tagOk ys n = tagOk xs n := by
  simp only [tagOk, htag]

theorem verdict_congr {xs ys : List Byte} (hlen : ys.length = xs.length)
    (htag : ∀ j, (rxPeek ys j).getLsbD 7 = (rxPeek xs j).getLsbD 7) (n : Nat) : verdict ys n = verdict xs n := by
  rw [verdict, verdict, hlen, tagOk_congr htag]

/-- A new byte with the old byte's tag leaves the verdict. -/
theorem verdict_set_of_tag_eq {rx : List Byte} {i : Nat} {b : Byte} (hi : i < rx.length)
    (htag : b.getLsbD 7 = (rxPeek rx i).getLsbD 7) (n : Nat) : verdict (rx.set i b) n = verdict rx n := by
  refine verdict_congr List.length_set (fun j => ?_) n
  by_cases hj : j = i
  · rw [hj, rxPeek_set_self hi, htag]
  · rw [rxPeek_set_of_ne hj]

/-- R105: "Any single violation → Rejected". -/
theorem verdict_rejected_of_tag_ne {rx : List Byte} {i n : Nat} (hlen : requiredLength n ≤ rx.length)
    (hi : i < requiredLength n) (htag : (rxPeek rx i).getLsbD 7 ≠ expectedTag i n) : verdict rx n = .rejected := by
  rw [verdict_rejected_iff, ← Bool.not_eq_true, tagOk_iff]
  exact ⟨hlen, fun hall => htag (hall i hi)⟩

/-- In a valid frame, a new byte with the other tag makes a violation. -/
theorem verdict_set_of_tag_ne {rx : List Byte} {i n : Nat} {b : Byte} (hvalid : verdict rx n = .valid)
    (hi : i < requiredLength n) (htag : b.getLsbD 7 ≠ (rxPeek rx i).getLsbD 7) :
    verdict (rx.set i b) n = .rejected := by
  obtain ⟨hlen, hok⟩ := (verdict_valid_iff rx n).mp hvalid
  rw [(tagOk_iff rx n).mp hok i hi] at htag
  refine verdict_rejected_of_tag_ne (hlen.trans_eq List.length_set.symm) hi ?_
  rwa [rxPeek_set_self (by omega)]

theorem tag_xor_tagBit (b : Byte) : (b ^^^ 0x80#8).getLsbD 7 = !b.getLsbD 7 := by
  rw [BitVec.getLsbD_xor, show (0x80#8).getLsbD 7 = true from rfl, Bool.xor_true]

theorem tag_xor_payloadBit (b : Byte) {p : Nat} (hp : p < 7) : (b ^^^ 1#8 <<< p).getLsbD 7 = b.getLsbD 7 := by
  have hbit : (1#8 <<< p).getLsbD 7 = false := by
    have hshift : 7 - p ≠ 0 := by omega
    simp only [BitVec.getLsbD_shiftLeft, BitVec.getLsbD_one, hshift, decide_false, Bool.and_false]
  rw [BitVec.getLsbD_xor, hbit, Bool.xor_false]

end Sys2Proof.Machine

/-- Settles O40: the groups of a field are the digits of its code, and the code's 28 bits are the value's. -/
theorem fieldEncodingDecodes : Obligations.FieldEncodingDecodes := by
  unfold Obligations.FieldEncodingDecodes
  exact ⟨fun v rest hv => (fieldAt_encField_append v 2 rest).decU14 hv,
    fun v rest hlo hhi => (fieldAt_encField_append v 4 rest).decS28 ⟨hlo, hhi⟩, decS28_eq_toInt⟩

/-- Settles O42: the verdict reads bit 7 of each byte of the frame, and no other bit. -/
theorem oneWrongTagRejects : Obligations.OneWrongTagRejects := by
  unfold Obligations.OneWrongTagRejects
  intro rx n i hlen hi
  constructor
  · intro hvalid
    exact verdict_set_of_tag_ne hvalid hi (by rw [tag_xor_tagBit]; exact Bool.not_ne_self _)
  · intro p hp
    exact verdict_set_of_tag_eq (hi.trans_le hlen) (tag_xor_payloadBit _ hp) n

end

section
/-! PROOFS. The Configuration Encoder (`41_config_encoder.md`): staging (R120–R125), the codes UxOf and FxOf beside the
source's formulas (R126, R127, R131, R132), and ENC (R128–R130, R133). -/

open Sys2Proof Sys2Proof.Machine Sys2Proof.Claims

namespace Sys2Proof.Machine

/-! RNE (R13) as a function of the quotient. -/

theorem abs_rne_sub_div_le_half (a b : Int) (hb : 0 < b) : |(rne a b : ℚ) - a / b| ≤ 1 / 2 := by
  have hb' : (0 : ℚ) < b := by exact_mod_cast hb
  obtain ⟨hlo, hhi⟩ := rne_bounds a b hb
  have herr : |a - b * rne a b| * 2 ≤ 1 * b := by
    rcases abs_cases (a - b * rne a b) with ⟨e, -⟩ | ⟨e, -⟩ <;> omega
  rw [abs_sub_comm, abs_div_sub_intCast a b _ hb, div_le_div_iff₀ hb' two_pos]
  exact_mod_cast herr

/-- A larger quotient is not rounded lower: only at one and the same tie could two answers cross, and there both would
be even. -/
theorem rne_mono {a b a' b' : Int} (hb : 0 < b) (hb' : 0 < b') (h : (a : ℚ) / b ≤ a' / b') :
    rne a b ≤ rne a' b' := by
  by_contra hlt
  have hcross : (rne a' b' : ℚ) + 1 ≤ rne a b := by exact_mod_cast not_le.mp hlt
  obtain ⟨-, hhi⟩ := abs_le.mp (abs_rne_sub_div_le_half a b hb)
  obtain ⟨hlo, -⟩ := abs_le.mp (abs_rne_sub_div_le_half a' b' hb')
  have htie : (a : ℚ) / b - rne a b = -(1 / 2) := by linarith
  have htie' : (a' : ℚ) / b' - rne a' b' = 1 / 2 := by linarith
  have hnext : rne a b = rne a' b' + 1 := by
    have : (rne a b : ℚ) = rne a' b' + 1 := by linarith
    exact_mod_cast this
  have heven := (roundingIsToNearestEven a b hb).2 (by rw [htie]; norm_num)
  have heven' := (roundingIsToNearestEven a' b' hb').2 (by rw [htie']; norm_num)
  omega

/-! The codes are the source's formulas, rounded (R126, R127, R132). -/

theorem exactUx_eq_div {vc : Nat} (h : 1 ≤ vc) :
    exactUx vc = ((32 * (9000000 - 458 * (vc : Int)) : Int) : ℚ) / ((625 * (vc : Int) : Int) : ℚ) := by
  have hvc : (vc : ℚ) ≠ 0 := by exact_mod_cast (by omega : vc ≠ 0)
  rw [exactUx]
  push_cast
  field_simp
  ring

theorem exactFx_eq_div (fq : Nat) : exactFx fq = ((128 * (fq : Int) : Int) : ℚ) / ((15625 : Int) : ℚ) := by
  rw [exactFx]
  push_cast
  ring

theorem abs_uxOf_sub_exactUx_le_half {vc : Nat} (h : 1 ≤ vc) : |(uxOf vc : ℚ) - exactUx vc| ≤ 1 / 2 := by
  rw [exactUx_eq_div h]
  exact abs_rne_sub_div_le_half _ _ (by omega)

theorem abs_fxOf_sub_exactFx_le_half (fq : Nat) : |(fxOf fq : ℚ) - exactFx fq| ≤ 1 / 2 := by
  rw [exactFx_eq_div]
  exact abs_rne_sub_div_le_half _ _ (by decide)

/-- R132: the divisor of Vrec undoes R126's formula. -/
theorem reconstruct_exactUx (vc : Nat) : 50 * exactUx vc / 256 + 458 / 100 = 900 / ((vc : ℚ) / 100) := by
  rw [exactUx]
  ring

/-! The codes on the legal ranges (R131): each end of a range is the extreme, since the source's formulas are monotone
in the staged value. -/

theorem uxOf_antitone {vc vc' : Nat} (hpos : 1 ≤ vc) (h : vc ≤ vc') : uxOf vc' ≤ uxOf vc := by
  refine rne_mono (by omega) (by omega) ?_
  rw [← exactUx_eq_div (by omega), ← exactUx_eq_div hpos, exactUx, exactUx]
  gcongr

theorem fxOf_monotone {fq fq' : Nat} (h : fq ≤ fq') : fxOf fq ≤ fxOf fq' := by
  refine rne_mono (by decide) (by decide) ?_
  rw [← exactFx_eq_div, ← exactFx_eq_div, exactFx, exactFx]
  gcongr

theorem uxOf_1655 : uxOf 1655 = 255 := by decide
theorem uxOf_19651 : uxOf 19651 = 0 := by decide
theorem fxOf_4095934464 : fxOf 4095934464 = 33553895 := by decide

theorem uxOf_le_255 {vc : Nat} (h : 1655 ≤ vc) : uxOf vc ≤ 255 :=
  (uxOf_antitone (by decide) h).trans_eq uxOf_1655

theorem fxOf_le_33553895 {fq : Nat} (h : fq ≤ 4095934464) : fxOf fq ≤ 33553895 :=
  (fxOf_monotone h).trans_eq fxOf_4095934464

/-! CfgCheck on the staged registers (R128). -/

/-- R131: the ranges alone suffice. -/
theorem stagedCheck_of_legalConfig {s : State} (h : LegalConfig s) :
    stagedCheck s = some (uxOf s.cfgVolt.toNat, fxOf s.cfgFreq.toNat) := by
  obtain ⟨hvlo, hvhi, hfq, himp, hch, hit⟩ := h
  have hux := uxOf_le_255 hvlo
  have hfx := fxOf_le_33553895 hfq
  rw [stagedCheck, cfgCheck, if_neg (by omega), if_neg (by omega), if_neg (by omega), if_neg (by omega),
    if_neg (by omega)]

theorem stagedCheck_of_not_legalConfig {s : State} (h : ¬ LegalConfig s) : stagedCheck s = none := by
  by_contra hne
  obtain ⟨codes, hcodes⟩ := Option.ne_none_iff_exists'.mp hne
  simp only [stagedCheck, cfgCheck, Option.ite_none_left_eq_some] at hcodes
  obtain ⟨hvolt, -, hfreq, -, hoperands, -⟩ := hcodes
  exact h (by unfold LegalConfig; omega)

/-! ENC (R129, R130). -/

/-- The state in which a legal ENC leaves the block. -/
def encoded (s : State) : State :=
  finish 0x18#8 .ok (latchConfig (uxOf s.cfgVolt.toNat) (fxOf s.cfgFreq.toNat) { s with ackOk := false })

theorem exec_enc_of_legalConfig {s : State} (h : LegalConfig s) : exec .enc s = .next (encoded s) :=
  exec_of_effect (.encOk _ _ (stagedCheck_of_legalConfig h))

theorem encoded_ux_toNat {s : State} (h : LegalConfig s) : ((encoded s).ux.toNat : Int) = uxOf s.cfgVolt.toNat := by
  obtain ⟨hvlo, hvhi, -⟩ := h
  have h0 := uxOf_nonneg (by omega) hvhi
  have hle := uxOf_le_255 hvlo
  rw [encoded, finish_ux, latchConfig_ux, toNat_ofInt_of_lt h0 (by omega), Int.toNat_of_nonneg h0]

theorem encoded_fx_toNat {s : State} (h : LegalConfig s) : ((encoded s).fx.toNat : Int) = fxOf s.cfgFreq.toNat := by
  obtain ⟨-, -, hfq, -⟩ := h
  have h0 := fxOf_nonneg s.cfgFreq.toNat
  have hle := fxOf_le_33553895 hfq
  rw [encoded, finish_fx, latchConfig_fx, toNat_ofInt_of_lt h0 (by omega), Int.toNat_of_nonneg h0]

theorem encoded_encCh_toNat {s : State} (h : LegalConfig s) : (encoded s).encCh.toNat = s.cfgCh.toNat := by
  obtain ⟨-, -, -, -, hch, -⟩ := h
  rw [encoded, finish_encCh, latchConfig_encCh, BitVec.toNat_setWidth]
  exact Nat.mod_eq_of_lt (Nat.lt_succ_of_le hch)

theorem encoded_cframe (s : State) :
    (encoded s).cframe = packFrame (uxOf s.cfgVolt.toNat).toNat (fxOf s.cfgFreq.toNat).toNat s.cfgImp.toNat
      s.cfgCh.toNat s.cfgInt.toNat := by
  rw [encoded, finish_cframe, latchConfig_cframe]

/-- R129: the frame holds the codes of UX and FX. -/
theorem encoded_cframe_eq_packFrame {s : State} (h : LegalConfig s) :
    (encoded s).cframe = packFrame (encoded s).ux.toNat (encoded s).fx.toNat s.cfgImp.toNat s.cfgCh.toNat
      s.cfgInt.toNat := by
  rw [encoded_cframe, ← encoded_ux_toNat h, ← encoded_fx_toNat h, Int.toNat_natCast, Int.toNat_natCast]

/-- R129, R133: the frame holds the channel count modulo 128. -/
theorem packFrame_ch_add_128 (ux fx imp ch it : Nat) :
    packFrame ux fx imp (ch + 128) it = packFrame ux fx imp ch it := by
  have hch : (ch + 128) &&& 0x7F = ch &&& 0x7F := by
    rw [Nat.and_two_pow_sub_one_eq_mod _ 7, Nat.and_two_pow_sub_one_eq_mod _ 7, Nat.add_mod_right]
  rw [packFrame, packFrame, hch]

end Sys2Proof.Machine

/-- Settles O31: the codes are monotone, so their values at the ends of the legal ranges bound them. -/
theorem postConversionChecksNeverFire : Obligations.PostConversionChecksNeverFire := by
  unfold Obligations.PostConversionChecksNeverFire
  exact ⟨fun vc hlo hhi => ⟨uxOf_nonneg (by omega) hhi, uxOf_le_255 hlo⟩,
    fun vc vc' hlo hle _ => uxOf_antitone (by omega) hle, uxOf_1655, uxOf_19651,
    fun fq hfq => ⟨fxOf_nonneg fq, fxOf_le_33553895 hfq⟩, fun _ _ => fxOf_monotone, fxOf_4095934464⟩

/-- Settles O32: RNE errs by at most half a unit, and the source's formulas are the quotients it rounds. -/
theorem codesAreWithinHalfAStep : Obligations.CodesAreWithinHalfAStep := by
  unfold Obligations.CodesAreWithinHalfAStep
  refine ⟨fun vc => abs_uxOf_sub_exactUx_le_half, abs_fxOf_sub_exactFx_le_half, fun vc _ => ?_, fun fq => ?_⟩
  · rw [reconstruct_exactUx, div_div_cancel₀ (by norm_num)]
  · rw [exactFx]
    ring

/-- Settles O30: CfgCheck passes exactly on the legal ranges, where the codes fit their registers. -/
theorem encEncodesOrRejects : Obligations.EncEncodesOrRejects := by
  unfold Obligations.EncEncodesOrRejects
  intro s
  constructor
  · intro h
    exact ⟨encoded s, exec_enc_of_legalConfig h, encoded_ux_toNat h, encoded_fx_toNat h, encoded_encCh_toNat h,
      encoded_cframe_eq_packFrame h, rfl⟩
  · intro h
    exact exec_of_effect (.encFail (stagedCheck_of_not_legalConfig h))

/-- Settles O34: the larger count is legal too, and the frame's seven bits of it are the smaller count's. -/
theorem channelCounts128ApartShareAFrame : Obligations.ChannelCounts128ApartShareAFrame := by
  unfold Obligations.ChannelCounts128ApartShareAFrame
  intro s h hch
  have hsum : (s.cfgCh + 128#16).toNat = s.cfgCh.toNat + 128 := by bv_omega
  have hlegal : LegalConfig { s with cfgCh := s.cfgCh + 128#16 } := by
    obtain ⟨hvlo, hvhi, hfq, himp, -, hit⟩ := h
    exact ⟨hvlo, hvhi, hfq, himp, by rw [hsum]; omega, hit⟩
  refine ⟨_, _, exec_enc_of_legalConfig h, exec_enc_of_legalConfig hlegal, ?_, encoded_encCh_toNat h, ?_⟩
  · rw [encoded_cframe, encoded_cframe, hsum, packFrame_ch_add_128]
  · rw [encoded_encCh_toNat hlegal, hsum]

/-- Settles O29: each half of CFG_FREQ is one side of an append, so one is replaced and the other kept. -/
theorem stagingCommandsWriteTheirRegister : Obligations.StagingCommandsWriteTheirRegister := by
  unfold Obligations.StagingCommandsWriteTheirRegister
  intro s imm
  refine ⟨rfl, ⟨withFreqLow s.cfgFreq imm, rfl, ?_, ?_⟩, ⟨withFreqHigh s.cfgFreq imm, rfl, ?_, ?_⟩, rfl, rfl, rfl⟩
  · exact BitVec.extractLsb'_append_eq_right
  · exact BitVec.extractLsb'_append_eq_left
  · exact BitVec.extractLsb'_append_eq_left
  · exact BitVec.extractLsb'_append_eq_right

end

section
/-! PROOFS. The Acknowledgement Verifier (`42_ack_verifier.md`): the comparison (R153) and VACK's outcomes (R152). -/

open Sys2Proof Sys2Proof.Machine Sys2Proof.Claims

namespace Sys2Proof.Machine

theorem ackMatch_iff_echoed (s : State) : ackMatch s = true ↔ Echoed s := by
  rw [ackMatch, decide_eq_true_iff, Echoed]

theorem ackMatch_false_iff_not_echoed (s : State) : ackMatch s = false ↔ ¬ Echoed s := by
  rw [← ackMatch_iff_echoed, Bool.not_eq_true]

end Sys2Proof.Machine

/-- Settles O36: AckMatch decides the echo, so each outcome is one path of VACK. -/
theorem vackComparesTheEcho : Obligations.VackComparesTheEcho := by
  unfold Obligations.VackComparesTheEcho
  intro s
  refine ⟨fun hcfg => ?noConfig, fun hcfg hecho => ?mismatch, fun hcfg hecho => ?ok⟩
  case noConfig => exact exec_of_effect (.vackNone hcfg)
  case mismatch => exact exec_of_effect (.vackBad hcfg ((ackMatch_false_iff_not_echoed s).mpr hecho))
  case ok => exact exec_of_effect (.vackOk hcfg ((ackMatch_iff_echoed s).mpr hecho))

end

section
/-! PROOFS. The reception buffer and the Measurement Frame Validator (`43_frame_validator.md`): the buffer's commands
(R170–R172), that the validator reads the oldest frame alone (R174, R177), and VAL's outcomes (R176). -/

open Sys2Proof Sys2Proof.Machine Sys2Proof.Claims

namespace Sys2Proof.Machine

/-! The front of the buffer (R105, R106, R174): what reads the first 14 + 8n bytes alone. -/

/-- Two buffers show the same bytes to the validator for n channels. -/
def SameFront (xs ys : List Byte) (n : Nat) : Prop := ∀ i < requiredLength n, rxPeek xs i = rxPeek ys i

theorem sameFront_append {rx : List Byte} {n : Nat} (h : requiredLength n ≤ rx.length) (later : List Byte) :
    SameFront (rx ++ later) rx n :=
  fun _ hi => rxPeek_append_left (hi.trans_le h) later

theorem SameFront.tagOk {xs ys : List Byte} {n : Nat} (h : SameFront xs ys n) : tagOk xs n = tagOk ys n := by
  rw [Bool.eq_iff_iff, tagOk_iff, tagOk_iff]
  exact forall₂_congr fun i hi => by rw [h i hi]

theorem SameFront.decU {xs ys : List Byte} {n o m : Nat} (h : SameFront xs ys n) (hend : o + m ≤ requiredLength n) :
    decU xs o m = decU ys o m :=
  decU_congr fun i _ hi => h i (hi.trans_le hend)

theorem SameFront.decS28 {xs ys : List Byte} {n o : Nat} (h : SameFront xs ys n) (hend : o + 4 ≤ requiredLength n) :
    decS28 xs o = decS28 ys o :=
  decS28_congr fun i _ hi => h i (hi.trans_le hend)

/-- R106: every field of the record lies in the front. -/
theorem SameFront.extract {xs ys : List Byte} {n : Nat} (h : SameFront xs ys n) : extract xs n = extract ys n := by
  have hheader : 14 ≤ requiredLength n := Nat.le_add_right 14 _
  have hchannel : ∀ k ∈ List.range n, 18 + 8 * k + 4 ≤ requiredLength n := fun k hk => by
    have := List.mem_range.mp hk
    unfold requiredLength
    omega
  have hphase := List.map_congr_left fun k hk => h.decS28 (o := 14 + 8 * k) (by have := hchannel k hk; omega)
  have hquad := List.map_congr_left fun k hk => h.decS28 (o := 18 + 8 * k) (hchannel k hk)
  simp only [Machine.extract, decU14]
  rw [h.decU (by omega), h.decU (by omega), h.decU (by omega), h.decS28 (by omega), h.decS28 (by omega), hphase, hquad]

/-- R174: the length test passes for both buffers, and the tags are those of the front. -/
theorem verdict_append {rx : List Byte} {n : Nat} (h : requiredLength n ≤ rx.length) (later : List Byte) :
    verdict (rx ++ later) n = verdict rx n := by
  have hlong : requiredLength n ≤ (rx ++ later).length := h.trans (by simp)
  rw [verdict, verdict, if_neg hlong.not_gt, if_neg h.not_gt, (sameFront_append h later).tagOk]

/-! A rejected front (R177). -/

/-- The oldest 14 + 8 ACT_CH bytes are there and VAL rejects them. -/
def FrontRejected (s : State) : Prop := s.actValid = true ∧ verdict s.rx s.actCh.toNat = .rejected

/-- R176: a VAL that rejects leaves the front it rejected. -/
theorem frontRejected_of_effect_val {s u : State} (h : Effect s .val .frameRejected u) : FrontRejected u := by
  cases h with
  | valRejected hact hverdict => exact ⟨hact, hverdict⟩

theorem FrontRejected.finish {s : State} (h : FrontRejected s) (op : Byte) (c : ResultCode) :
    FrontRejected (finish op c s) := h

/-- R170, R177: RXB discards its byte or appends it, and neither changes a rejected front. -/
theorem FrontRejected.effect_rxb {s u : State} {b : Byte} {c : ResultCode} (h : FrontRejected s)
    (he : Effect s (.rxb b) c u) : FrontRejected u := by
  obtain ⟨hact, hverdict⟩ := h
  obtain ⟨hlen, -⟩ := (verdict_rejected_iff _ _).mp hverdict
  cases he with
  | rxbFull => exact ⟨hact, hverdict⟩
  | rxbOk => exact ⟨hact, (verdict_append hlen [b]).trans hverdict⟩

/-! The buffer's commands and states (R67, R172, R175). -/

/-- With m bytes gone from the front, byte i + m stands at i. -/
theorem getD_drop (rx : List Byte) (m i : Nat) : (rx.drop m).getD i 0#8 = rx.getD (i + m) 0#8 := by
  rw [List.getD_eq_getElem?_getD, List.getElem?_drop, Nat.add_comm, ← List.getD_eq_getElem?_getD]

theorem bufferState_cases (rx : List Byte) (n : Nat) :
    (bufferState rx n = .empty ∧ rx.length = 0) ∨
    (bufferState rx n = .accumulating ∧ 0 < rx.length ∧ rx.length < requiredLength n) ∨
    (bufferState rx n = .validCandidate ∧ requiredLength n ≤ rx.length ∧ tagOk rx n = true) ∨
    (bufferState rx n = .rejectedCandidate ∧ requiredLength n ≤ rx.length ∧ tagOk rx n = false) := by
  by_cases hempty : rx.length = 0
  · exact .inl ⟨if_pos hempty, hempty⟩
  · rw [bufferState, if_neg hempty]
    cases hverdict : verdict rx n with
    | short => exact .inr (.inl ⟨rfl, Nat.pos_of_ne_zero hempty, (verdict_short_iff rx n).mp hverdict⟩)
    | valid => exact .inr (.inr (.inl ⟨rfl, (verdict_valid_iff rx n).mp hverdict⟩))
    | rejected => exact .inr (.inr (.inr ⟨rfl, (verdict_rejected_iff rx n).mp hverdict⟩))

/-! VAL's fields and tags, as bytes (R82, R83, R101, R103). -/

/-- R101: DecU is the sum of its groups. -/
theorem decU_eq_groups (rx : List Byte) (o m : Nat) : decU rx o m = groups rx o m := by
  induction m with
  | zero => rfl
  | succ m ih =>
    have hgroup : (rxPeek rx (o + m)).toNat &&& 0x7F = (rx.getD (o + m) 0#8).toNat % 128 :=
      Nat.and_two_pow_sub_one_eq_mod _ 7
    have hsucc : groups rx o (m + 1) = groups rx o m + (rx.getD (o + m) 0#8).toNat % 128 * 128 ^ m := by
      simp [groups, List.range_succ]
    rw [decU, ih, hgroup, hsucc, Nat.shiftLeft_eq, Nat.pow_mul]

/-- R102: a 14-bit register holds its two groups whole. -/
theorem toNat_ofNat_decU14 (rx : List Byte) (o : Nat) : (BitVec.ofNat 14 (decU14 rx o)).toNat = groups rx o 2 := by
  rw [toNat_ofNat_of_fieldU14 (decU14_lt rx o), decU14, decU_eq_groups]

/-- R103: a 28-bit register holds its four groups whole; their sign is read from bit 27. -/
theorem toNat_ofInt_decS28 (rx : List Byte) (o : Nat) : (BitVec.ofInt 28 (decS28 rx o)).toNat = groups rx o 4 := by
  have hlt : decU rx o 4 < 2 ^ 28 := decU_lt rx o 4
  rw [decS28_eq_toInt, BitVec.ofInt_toInt, BitVec.toNat_ofNat, Nat.mod_eq_of_lt hlt, decU_eq_groups]

theorem tagOk_iff_tagsRight (rx : List Byte) (n : Nat) : tagOk rx n = true ↔ TagsRight rx n := by
  rw [tagOk_iff]
  refine forall₂_congr fun i _ => ?_
  rw [Bool.eq_iff_iff, expectedTag_iff, rxPeek]

theorem extract_phasePotential_getD (rx : List Byte) {k n : Nat} (hk : k < n) :
    (extract rx n).phasePotentialCode.getD k 0 = decS28 rx (14 + 8 * k) := by
  simp [extract, hk]

theorem extract_quadPotential_getD (rx : List Byte) {k n : Nat} (hk : k < n) :
    (extract rx n).quadPotentialCode.getD k 0 = decS28 rx (18 + 8 * k) := by
  simp [extract, hk]

/-- R176: the frame-level registers take their fields. -/
theorem loadFrame_extract_frameFields (s : State) (rx : List Byte) (n : Nat) :
    (loadFrame (extract rx n) s).measCount.toNat = groups rx 0 2 ∧
      (loadFrame (extract rx n) s).recBatRaw.toNat = groups rx 2 2 ∧
      (loadFrame (extract rx n) s).emBatRaw.toNat = groups rx 4 2 ∧
      (loadFrame (extract rx n) s).iPRaw.toNat = groups rx 6 4 ∧
      (loadFrame (extract rx n) s).iQRaw.toNat = groups rx 10 4 := by
  simp only [loadFrame_measCount, loadFrame_recBatRaw, loadFrame_emBatRaw, loadFrame_iPRaw, loadFrame_iQRaw, extract,
    toNat_ofNat_decU14, toNat_ofInt_decS28, and_self]

/-- R176: a channel of the frame takes its two fields. -/
theorem loadChannel_extract_of_lt (rx : List Byte) {k n : Nat} (hk : k < n) (c : Channel) :
    (loadChannel (extract rx n) n k c).vPRaw.toNat = groups rx (14 + 8 * k) 4 ∧
      (loadChannel (extract rx n) n k c).vQRaw.toNat = groups rx (18 + 8 * k) 4 := by
  rw [loadChannel, if_pos hk, extract_phasePotential_getD rx hk, extract_quadPotential_getD rx hk]
  exact ⟨toNat_ofInt_decS28 rx _, toNat_ofInt_decS28 rx _⟩

/-- R176: a channel past the frame keeps its raw codes. -/
theorem loadChannel_of_le (f : FrameFields) {k n : Nat} (hk : n ≤ k) (c : Channel) :
    loadChannel f n k c = { c with flags := 0#4 } := if_neg hk.not_gt

/-- R176: a channel changes in its raw codes and flags alone. -/
theorem loadChannel_frame (f : FrameFields) (n k : Nat) (c : Channel) :
    loadChannel f n k c =
      { c with vPRaw := (loadChannel f n k c).vPRaw, vQRaw := (loadChannel f n k c).vQRaw, flags := 0#4 } := by
  unfold loadChannel
  split <;> rfl

end Sys2Proof.Machine

/-- Settles O37: each command's path gives the next state, and dropping m bytes moves byte i + m to i. -/
theorem receptionBufferCommands : Obligations.ReceptionBufferCommands := by
  unfold Obligations.ReceptionBufferCommands
  intro s b n
  have hfull : s.rx.length = s.rxCap →
      exec (.rxb b) s = .next (finish 0x30#8 .rxOverflow { s with ovfCount := s.ovfCount + 1#32 }) :=
    fun h => exec_of_effect (.rxbFull b h)
  have hroom : s.rx.length ≠ s.rxCap → exec (.rxb b) s = .next (finish 0x30#8 .ok (rxAppend b s)) :=
    fun h => exec_of_effect (.rxbOk b h)
  have hdrop : exec (.rxdrop n) s = .next (finish 0x32#8 .ok (rxDropFront n.toNat s)) :=
    exec_of_effect (.rxdrop n)
  exact ⟨hfull, hroom, exec_of_effect .rxclr, _, hdrop, List.length_drop, fun i _ => getD_drop s.rx _ i, rfl⟩

/-- Settles O39: the verdict selects VAL's path, and a valid frame's record is loaded field by field. -/
theorem valExtractsOrRejects : Obligations.ValExtractsOrRejects := by
  unfold Obligations.ValExtractsOrRejects
  intro s
  refine ⟨fun hact => ?noConfig, fun hact hlen => ?short, fun hact hlen htags => ?rejected,
    fun hact hlen htags => ?valid⟩
  case noConfig => exact exec_of_effect (.valNone hact)
  case short => exact exec_of_effect (.valShort hact ((verdict_short_iff _ _).mpr hlen))
  case rejected =>
    rw [← tagOk_iff_tagsRight, Bool.not_eq_true] at htags
    exact exec_of_effect (.valRejected hact ((verdict_rejected_iff _ _).mpr ⟨hlen, htags⟩))
  case valid =>
    rw [← tagOk_iff_tagsRight] at htags
    obtain ⟨hmeas, hrec, hem, hip, hiq⟩ := loadFrame_extract_frameFields s s.rx s.actCh.toNat
    refine ⟨_, exec_of_effect (.valOk hact ((verdict_valid_iff _ _).mpr ⟨hlen, htags⟩)),
      hmeas, hrec, hem, hip, hiq, fun k => ?_, rfl⟩
    rw [finish_channels, loadFrame_channels, getElem_mapChannels]
    refine ⟨fun hk => loadChannel_extract_of_lt s.rx hk _, fun hk => ?_, loadChannel_frame _ _ _ _⟩
    rw [loadChannel_of_le _ hk]
    exact ⟨rfl, rfl⟩

/-- Settles O43: later bytes leave the front as it was. -/
theorem validatorReadsOnlyTheFront : Obligations.ValidatorReadsOnlyTheFront := by
  unfold Obligations.ValidatorReadsOnlyTheFront
  intro rx later n hlen
  exact ⟨verdict_append hlen later, (sameFront_append hlen later).extract⟩

/-- Settles O44: the front stays rejected through VAL and RXB. -/
theorem rejectedFrontStaysRejected : Obligations.RejectedFrontStaysRejected := by
  unfold Obligations.RejectedFrontStaysRejected
  intro s t u b hval hcode hrxb
  obtain ⟨c, s', heffect, rfl⟩ := exec_next_effect hval (by decide)
  obtain rfl : c = .frameRejected := (statusCode_finish_eq_iff _ c .frameRejected s').mp hcode
  have hfront : FrontRejected (finish (opcodeOf .val) .frameRejected s') :=
    (frontRejected_of_effect_val heffect).finish _ _
  obtain ⟨d, u', heffect', rfl⟩ := exec_next_effect hrxb (by simp)
  obtain ⟨hact, hverdict⟩ := (hfront.effect_rxb heffect').finish (opcodeOf (.rxb b)) d
  exact ⟨_, exec_of_effect (.valRejected hact hverdict), statusCode_finish _ _ _⟩

/-- Settles O46: each case of the table excludes the others, since REQ is at least 14. -/
theorem bufferStatesOfTheSource : Obligations.BufferStatesOfTheSource := by
  unfold Obligations.BufferStatesOfTheSource
  intro rx n
  have hcases := bufferState_cases rx n
  unfold requiredLength at hcases
  simp only [isCandidate, requiredLength]
  rcases hcases with ⟨hstate, hlen⟩ | ⟨hstate, hpos, hlen⟩ | ⟨hstate, hlen, htag⟩ | ⟨hstate, hlen, htag⟩
  · simp [hstate, hlen]
  · simp [hstate, hpos, hpos.ne', hlen, hlen.not_ge]
  · have hpos : 0 < rx.length := by omega
    simp [hstate, hpos.ne', hlen, hlen.not_gt, htag]
  · have hpos : 0 < rx.length := by omega
    simp [hstate, hpos.ne', hlen, hlen.not_gt, htag]

end

section
/-! PROOFS. The converter's values (`44_converter.md` R201–R206): each is held whole in its register, and what each
conversion command does with it. -/

open Sys2Proof Sys2Proof.Machine Sys2Proof.Claims

namespace Sys2Proof.Machine

/-! The raw codes (R31, R32). -/

theorem abs_toInt_le (r : BitVec 28) : |r.toInt| ≤ 2 ^ 27 :=
  abs_le.mpr ⟨BitVec.le_toInt r, (BitVec.toInt_lt (x := r)).le⟩

theorem toInt_sq_le (r : BitVec 28) : r.toInt ^ 2 ≤ 2 ^ 54 := by
  simpa [← pow_mul] using sq_le_sq' (abs_le.mp (abs_toInt_le r)).1 (abs_le.mp (abs_toInt_le r)).2

theorem sum_sq_eq_zero_iff (p q : BitVec 28) : p.toInt ^ 2 + q.toInt ^ 2 = 0 ↔ p = 0#28 ∧ q = 0#28 := by
  rw [add_eq_zero_iff_of_nonneg (sq_nonneg _) (sq_nonneg _), sq_eq_zero_iff, sq_eq_zero_iff, ← BitVec.toInt_inj,
    ← BitVec.toInt_inj]
  rfl

theorem toNat_sum_sq_le (p q : BitVec 28) : (p.toInt ^ 2 + q.toInt ^ 2).toNat ≤ 2 ^ 55 := by
  have hp := toInt_sq_le p
  have hq := toInt_sq_le q
  omega

/-! Batteries, currents and potentials (R201, R202, R204). -/

theorem battery_rne_bounds (r : BitVec 14) :
    0 ≤ rne (1199308800 * r.toNat) 16383 ∧ rne (1199308800 * r.toNat) 16383 ≤ 1199308800 :=
  ⟨le_rne _ _ _ (by decide) (by omega), rne_le _ _ _ (by decide) (by omega)⟩

theorem batteryMv_toNat (r : BitVec 14) : ((batteryMv r).toNat : Int) = rne (1199308800 * r.toNat) 16383 := by
  obtain ⟨hlo, hhi⟩ := battery_rne_bounds r
  rw [batteryMv, toNat_ofInt_of_lt hlo (by omega), Int.toNat_of_nonneg hlo]

theorem batteryMv_toNat_le (r : BitVec 14) : (batteryMv r).toNat ≤ 1199308800 := by
  have h := (battery_rne_bounds r).2
  rw [← batteryMv_toNat] at h
  exact_mod_cast h

theorem current_rne_bounds (r : BitVec 28) :
    -1489454545 ≤ rne (15625 * r.toInt) 1408 ∧ rne (15625 * r.toInt) 1408 ≤ 1489454534 := by
  have hlo := BitVec.le_toInt r
  have hhi := BitVec.toInt_lt (x := r)
  have hrne := rne_bounds (15625 * r.toInt) 1408 (by decide)
  omega

theorem currentMa_toInt (r : BitVec 28) : (currentMa r).toInt = rne (15625 * r.toInt) 1408 := by
  have h := current_rne_bounds r
  exact BitVec.toInt_ofInt_eq_self (by decide) (by omega) (by omega)

theorem currentMa_bounds (r : BitVec 28) : -1489454545 ≤ (currentMa r).toInt ∧ (currentMa r).toInt ≤ 1489454534 :=
  (currentMa_toInt r).symm ▸ current_rne_bounds r

/-- R13: the two answers add up to 0, or to 1 or -1 with both at a tie, where both would be even. -/
theorem rne_neg (a b : Int) (hb : 0 < b) : rne (-a) b = -rne a b := by
  obtain ⟨hlo, hhi⟩ := rne_bounds a b hb
  obtain ⟨hlo', hhi'⟩ := rne_bounds (-a) b hb
  have heven := rne_even_of_abs a b hb
  have heven' := rne_even_of_abs (-a) b hb
  have hsum : b * (rne (-a) b + rne a b) = b * rne (-a) b + b * rne a b := mul_add _ _ _
  have hle : rne (-a) b + rne a b ≤ 1 := by
    refine le_of_mul_le_mul_left ?_ hb
    omega
  have hge : -1 ≤ rne (-a) b + rne a b := by
    refine le_of_mul_le_mul_left ?_ hb
    omega
  rcases (by omega : rne (-a) b + rne a b = 0 ∨ rne (-a) b + rne a b = 1 ∨ rne (-a) b + rne a b = -1)
    with h | h | h
  · omega
  · rw [h] at hsum
    have htie := heven (by rw [abs_of_nonpos (by omega)]; omega)
    have htie' := heven' (by rw [abs_of_nonpos (by omega)]; omega)
    omega
  · rw [h] at hsum
    have htie := heven (by rw [abs_of_nonneg (by omega)]; omega)
    have htie' := heven' (by rw [abs_of_nonneg (by omega)]; omega)
    omega

theorem potentialMv_toInt (r : BitVec 28) : (potentialMv r).toInt = 625 * r.toInt := by
  have hlo := BitVec.le_toInt r
  have hhi := BitVec.toInt_lt (x := r)
  exact BitVec.toInt_ofInt_eq_self (by decide) (by omega) (by omega)

/-! Magnitudes (R203, R205). -/

/-- R14: RNSQRT keeps an upper bound whose upper midpoint is past sqrt(a/b). -/
theorem rnsqrt_le {a b m : Nat} (hb : 0 < b) (h : 4 * a < b * (2 * m + 1) ^ 2) : rnsqrt a b ≤ m := by
  by_contra hlt
  have hmid := (rnsqrt_nearest a b hb).2.1 (by omega)
  have hle : b * (2 * m + 1) ^ 2 ≤ b * (2 * rnsqrt a b - 1) ^ 2 :=
    Nat.mul_le_mul_left b (Nat.pow_le_pow_left (by omega) 2)
  omega

theorem current_rnsqrt_le {sq : Nat} (h : sq ≤ 2 ^ 55) : rnsqrt (244140625 * sq) 1982464 ≤ 2106406819 :=
  rnsqrt_le (by decide) (by omega)

theorem currentMag_toNat (p q : BitVec 28) :
    (currentMag (p.toInt ^ 2 + q.toInt ^ 2)).toNat =
      rnsqrt (244140625 * (p.toInt ^ 2 + q.toInt ^ 2).toNat) 1982464 := by
  have h := current_rnsqrt_le (toNat_sum_sq_le p q)
  rw [currentMag, BitVec.toNat_ofNat, Nat.mod_eq_of_lt (by omega)]

theorem currentMag_toNat_le (p q : BitVec 28) : (currentMag (p.toInt ^ 2 + q.toInt ^ 2)).toNat ≤ 2106406819 :=
  (currentMag_toNat p q).trans_le (current_rnsqrt_le (toNat_sum_sq_le p q))

theorem potential_rnsqrt_le {sq : Nat} (h : sq ≤ 2 ^ 55) : rnsqrt (390625 * sq) 1 ≤ 118632832030 :=
  rnsqrt_le (by decide) (by omega)

theorem potentialMag_toNat (p q : BitVec 28) :
    (potentialMag (p.toInt ^ 2 + q.toInt ^ 2)).toNat = rnsqrt (390625 * (p.toInt ^ 2 + q.toInt ^ 2).toNat) 1 := by
  have h := potential_rnsqrt_le (toNat_sum_sq_le p q)
  rw [potentialMag, BitVec.toNat_ofNat, Nat.mod_eq_of_lt (by omega)]

theorem potentialMag_toNat_le (p q : BitVec 28) :
    (potentialMag (p.toInt ^ 2 + q.toInt ^ 2)).toNat ≤ 118632832030 :=
  (potentialMag_toNat p q).trans_le (potential_rnsqrt_le (toNat_sum_sq_le p q))

/-! Resistivities (R206). -/

/-- Integers are no larger than their squares, so a current's codes together are no larger than `den`. -/
theorem abs_dot_le (v w p q : Int) (hv : |v| ≤ 2 ^ 27) (hw : |w| ≤ 2 ^ 27) :
    |v * p + w * q| ≤ 2 ^ 27 * (p ^ 2 + q ^ 2) := by
  have hsq : ∀ x : Int, |x| ≤ x ^ 2 := fun x => by
    have := Int.natAbs_le_self_sq x
    rwa [Int.natCast_natAbs] at this
  calc |v * p + w * q| ≤ |v| * |p| + |w| * |q| := by
        rw [← abs_mul, ← abs_mul]
        exact abs_add_le _ _
    _ ≤ 2 ^ 27 * p ^ 2 + 2 ^ 27 * q ^ 2 := by
        gcongr
        · exact hsq p
        · exact hsq q
    _ = 2 ^ 27 * (p ^ 2 + q ^ 2) := (mul_add _ _ _).symm

theorem resistivity_rne_abs_lt {num den : Int} (hden : 0 < den) (hnum : |num| ≤ 2 ^ 27 * den) :
    |rne (7208960 * num) den| < 2 ^ 51 := by
  obtain ⟨hlo, hhi⟩ := abs_le.mp hnum
  have hle := rne_le (7208960 * num) den (2 ^ 51 - 1) hden (by omega)
  have hge := le_rne (7208960 * num) den (-(2 ^ 51 - 1)) hden (by omega)
  exact abs_lt.mpr ⟨by omega, by omega⟩

theorem resistivity_toInt {num den : Int} (hden : 0 < den) (hnum : |num| ≤ 2 ^ 27 * den) :
    (resistivity num den).toInt = rne (7208960 * num) den := by
  obtain ⟨hlo, hhi⟩ := abs_lt.mp (resistivity_rne_abs_lt hden hnum)
  exact BitVec.toInt_ofInt_eq_self (by decide) (by omega) (by omega)

/-- R206: both dot products of a channel's codes with the currents are bounded by `den`. -/
theorem abs_rho_numerators_le (ip iq vp vq : BitVec 28) :
    |vp.toInt * ip.toInt + vq.toInt * iq.toInt| ≤ 2 ^ 27 * (ip.toInt ^ 2 + iq.toInt ^ 2) ∧
      |vq.toInt * ip.toInt - vp.toInt * iq.toInt| ≤ 2 ^ 27 * (ip.toInt ^ 2 + iq.toInt ^ 2) := by
  have hp := abs_toInt_le vp
  have hq := abs_toInt_le vq
  refine ⟨abs_dot_le _ _ _ _ hp hq, ?_⟩
  rw [sub_eq_add_neg, ← neg_mul]
  exact abs_dot_le _ _ _ _ hq (by rwa [abs_neg])

theorem sum_sq_pos {ip iq : BitVec 28} (h : ¬ (ip = 0#28 ∧ iq = 0#28)) : 0 < ip.toInt ^ 2 + iq.toInt ^ 2 :=
  (add_nonneg (sq_nonneg _) (sq_nonneg _)).lt_of_ne' (mt (sum_sq_eq_zero_iff ip iq).mp h)

theorem rhoBody_of_zero {ip iq : BitVec 28} (h : ip = 0#28 ∧ iq = 0#28) (c : Channel) :
    rhoBody ip.toInt iq.toInt c = { c with rhoP := 0#64, rhoQ := 0#64, flags := rhoFlags c.flags true } :=
  if_pos ((sum_sq_eq_zero_iff ip iq).mpr h)

theorem rhoBody_of_ne_zero {ip iq : BitVec 28} (h : ¬ (ip = 0#28 ∧ iq = 0#28)) (c : Channel) :
    rhoBody ip.toInt iq.toInt c = { c with
      rhoP := resistivity (c.vPRaw.toInt * ip.toInt + c.vQRaw.toInt * iq.toInt) (ip.toInt ^ 2 + iq.toInt ^ 2)
      rhoQ := resistivity (c.vQRaw.toInt * ip.toInt - c.vPRaw.toInt * iq.toInt) (ip.toInt ^ 2 + iq.toInt ^ 2)
      flags := rhoFlags c.flags false } :=
  if_neg (sum_sq_pos h).ne'

/-- R206: CRHO writes the outputs and flags of its channel, and no other register. -/
theorem rhoBody_frame (ip iq : Int) (c : Channel) :
    rhoBody ip iq c =
      { c with rhoP := (rhoBody ip iq c).rhoP, rhoQ := (rhoBody ip iq c).rhoQ, flags := (rhoBody ip iq c).flags } := by
  unfold rhoBody
  split <;> rfl

theorem rhoBody_flags (ip iq : BitVec 28) (c : Channel) :
    (rhoBody ip.toInt iq.toInt c).flags = rhoFlags c.flags (decide (ip = 0#28 ∧ iq = 0#28)) := by
  by_cases h : ip = 0#28 ∧ iq = 0#28
  · rw [rhoBody_of_zero h, decide_eq_true h]
  · rw [rhoBody_of_ne_zero h, decide_eq_false h]

theorem rhoCode_of_zero {s : State} (h : s.iPRaw = 0#28 ∧ s.iQRaw = 0#28) : rhoCode s = .rhoUndefined :=
  if_pos ((sum_sq_eq_zero_iff _ _).mpr h)

theorem rhoCode_of_ne_zero {s : State} (h : ¬ (s.iPRaw = 0#28 ∧ s.iQRaw = 0#28)) : rhoCode s = .ok :=
  if_neg (sum_sq_pos h).ne'

/-! One channel's commands (R204–R206). -/

/-- The opcode written out, for a command whose operand is a variable. -/
theorem exec_of_effect_op {s u : State} {i : Instr} {c : ResultCode} {op : Byte} (h : Effect s i c u)
    (hop : opcodeOf i = op) : exec i s = .next (finish op c u) :=
  hop ▸ exec_of_effect h

theorem channelInFrame_of_lt {s : State} {k : BitVec 8} (h : k.toNat < s.frameCh.toNat) : channelInFrame s k = true :=
  decide_eq_true h

theorem channelInFrame_of_le {s : State} {k : BitVec 8} (h : s.frameCh.toNat ≤ k.toNat) :
    channelInFrame s k = false :=
  decide_eq_false h.not_gt

theorem updateChannel_channels_of_eq {k : Nat} {j : Fin 255} (h : j.val = k) (f : Channel → Channel) (s : State) :
    (updateChannel k f s).channels[j.val] = f s.channels[j.val] := by
  rw [updateChannel_channels_getElem, if_pos h]

theorem updateChannel_channels_of_ne {k : Nat} {j : Fin 255} (h : j.val ≠ k) (f : Channel → Channel) (s : State) :
    (updateChannel k f s).channels[j.val] = s.channels[j.val] := by
  rw [updateChannel_channels_getElem, if_neg h]

end Sys2Proof.Machine

/-- Settles O47: each code's quotient lies between 0 and the value of code 16383. -/
theorem cbatConvertsBatteries : Obligations.CbatConvertsBatteries := by
  unfold Obligations.CbatConvertsBatteries
  intro s
  refine ⟨fun hv => exec_of_effect (.cbatNone hv), fun hv => ⟨_, exec_of_effect (.cbatOk hv), ?_⟩⟩
  exact ⟨batteryMv_toNat _, batteryMv_toNat_le _, batteryMv_toNat _, batteryMv_toNat_le _, rfl⟩

/-- Settles O48: the range is that of the codes' quotients, and RNE mirrors at zero. -/
theorem ccurConvertsCurrents : Obligations.CcurConvertsCurrents := by
  unfold Obligations.CcurConvertsCurrents
  refine ⟨fun s => ⟨fun hv => exec_of_effect (.ccurNone hv), fun hv => ⟨_, exec_of_effect (.ccurOk hv), ?_⟩⟩,
    fun r => ?_⟩
  · obtain ⟨hplo, hphi⟩ := currentMa_bounds s.iPRaw
    obtain ⟨hqlo, hqhi⟩ := currentMa_bounds s.iQRaw
    exact ⟨currentMa_toInt _, hplo, hphi, currentMa_toInt _, hqlo, hqhi, rfl⟩
  · rw [mul_neg, rne_neg _ _ (by decide)]

/-- Settles O49: the largest magnitude is that of two codes of -2^27. -/
theorem cmagiComputesTheCurrentMagnitude : Obligations.CmagiComputesTheCurrentMagnitude := by
  unfold Obligations.CmagiComputesTheCurrentMagnitude
  intro s
  refine ⟨fun hv => exec_of_effect (.cmagiNone hv), fun hv => ⟨_, exec_of_effect (.cmagiOk hv), ?_⟩⟩
  have hmag := currentMag_toNat s.iPRaw s.iQRaw
  have hle := currentMag_toNat_le s.iPRaw s.iQRaw
  rw [magiBody, currentSquares]
  -- Kept opaque, so that the kernel compares the states without evaluating the root.
  generalize currentMag (s.iPRaw.toInt ^ 2 + s.iQRaw.toInt ^ 2) = m at hmag hle ⊢
  exact ⟨hmag, hle, rfl⟩

/-- Settles O50: 625 times a 28-bit code fits the 40-bit register. -/
theorem cpotConvertsOneChannel : Obligations.CpotConvertsOneChannel := by
  unfold Obligations.CpotConvertsOneChannel
  intro s k
  refine ⟨fun hv => ?noFrame, fun hv hk => ?badChannel, fun hv hk =>
    ⟨finish 0x43#8 .ok (updateChannel k.toNat potBody s), ?ok, fun j => ⟨fun hj => ?other, fun hj => ?own⟩, rfl⟩⟩
  case noFrame => exact exec_of_effect_op (op := 0x43#8) (.cpotNone k hv) rfl
  case badChannel => exact exec_of_effect_op (op := 0x43#8) (.cpotBad k hv (channelInFrame_of_le hk)) rfl
  case ok => exact exec_of_effect (.cpotOk k hv (channelInFrame_of_lt hk))
  case other => exact updateChannel_channels_of_ne hj potBody s
  case own =>
    rw [finish_channels, updateChannel_channels_of_eq hj]
    exact ⟨potentialMv_toInt _, potentialMv_toInt _, rfl⟩

/-- Settles O51: the largest magnitude is that of two codes of -2^27. -/
theorem cmagvComputesOneMagnitude : Obligations.CmagvComputesOneMagnitude := by
  unfold Obligations.CmagvComputesOneMagnitude
  intro s k
  refine ⟨fun hv => ?noFrame, fun hv hk => ?badChannel, fun hv hk =>
    ⟨finish 0x44#8 .ok (updateChannel k.toNat magvBody s), ?ok, fun j => ⟨fun hj => ?other, fun hj => ?own⟩, rfl⟩⟩
  case noFrame => exact exec_of_effect_op (op := 0x44#8) (.cmagvNone k hv) rfl
  case badChannel => exact exec_of_effect_op (op := 0x44#8) (.cmagvBad k hv (channelInFrame_of_le hk)) rfl
  case ok => exact exec_of_effect (.cmagvOk k hv (channelInFrame_of_lt hk))
  case other => exact updateChannel_channels_of_ne hj magvBody s
  case own =>
    rw [finish_channels, updateChannel_channels_of_eq hj]
    exact ⟨potentialMag_toNat _ _, potentialMag_toNat_le _ _, rfl⟩

/-- Settles O52: `den` is 0 exactly when both currents are, and otherwise both quotients fit 64 bits. -/
theorem crhoComputesOneResistivity : Obligations.CrhoComputesOneResistivity := by
  unfold Obligations.CrhoComputesOneResistivity
  intro s k
  refine ⟨fun hv => ?noFrame, fun hv hk => ?badChannel, fun hv hk =>
    ⟨finish 0x45#8 (rhoCode s) (updateChannel k.toNat (rhoBody s.iPRaw.toInt s.iQRaw.toInt) s), ?ok, fun j hj => ?other,
    fun j hj => ?own, fun hp hq => ?undefined, fun hne => ?defined⟩⟩
  case noFrame => exact exec_of_effect_op (op := 0x45#8) (.crhoNone k hv) rfl
  case badChannel => exact exec_of_effect_op (op := 0x45#8) (.crhoBad k hv (channelInFrame_of_le hk)) rfl
  case ok => exact exec_of_effect (.crhoOk k hv (channelInFrame_of_lt hk))
  case other => exact updateChannel_channels_of_ne hj _ s
  case own =>
    rw [finish_channels, updateChannel_channels_of_eq hj]
    generalize s.channels[j.val] = ch
    obtain ⟨hpot, hmagv, hrho, hinv⟩ := rhoFlags_getLsbD ch.flags (decide (s.iPRaw = 0#28 ∧ s.iQRaw = 0#28))
    rw [← rhoBody_flags] at hpot hmagv hrho hinv
    refine ⟨rhoBody_frame _ _ ch, hpot, hmagv, hrho, by rw [hinv, decide_eq_true_iff], fun hp hq => ?_,
      fun hne => ?_⟩
    · rw [rhoBody_of_zero ⟨hp, hq⟩]
      exact ⟨rfl, rfl⟩
    · obtain ⟨hphase, hquad⟩ := abs_rho_numerators_le s.iPRaw s.iQRaw ch.vPRaw ch.vQRaw
      rw [rhoBody_of_ne_zero hne]
      exact ⟨resistivity_toInt (sum_sq_pos hne) hphase, resistivity_toInt (sum_sq_pos hne) hquad⟩
  case undefined =>
    rw [rhoCode_of_zero ⟨hp, hq⟩]
    rfl
  case defined =>
    rw [rhoCode_of_ne_zero hne]
    rfl

end

section
/-! PROOFS. The converted values beside the source's real quantities (`44_converter.md` R200, R208), and which command
writes which converted register (R16, R33, R35). -/

open Sys2Proof Sys2Proof.Machine Sys2Proof.Claims

namespace Sys2Proof.Machine

/-! One rounding: half a unit in the last place. -/

/-- R200: a register that holds RNE of its quantity times 2^16. -/
theorem abs_fixedPoint_sub_le {reg a b : Int} {x : ℚ} (hb : 0 < b) (hreg : reg = rne a b)
    (hx : x * 2 ^ 16 = (a : ℚ) / b) : |fixedPoint reg 16 - x| ≤ 1 / 2 ^ 17 := by
  have hulp : fixedPoint reg 16 - x = (rne a b - a / b) / 2 ^ 16 := by
    rw [← hx, hreg, fixedPoint]
    ring
  rw [hulp, abs_div, abs_of_pos (by norm_num : (0 : ℚ) < 2 ^ 16), div_le_iff₀ (by norm_num)]
  exact (abs_rne_sub_div_le_half a b hb).trans_eq (by norm_num)

/-- R14: RNSQRT lies within half a unit of the root, told by squares. -/
theorem rnsqrt_sq_bounds {m a b : Nat} {y : ℚ} (hb : 0 < b) (hm : m = rnsqrt a b) (hy : y = (a : ℚ) / b) :
    (m = 0 ∨ (2 * (m : ℚ) - 1) ^ 2 ≤ 4 * y) ∧ 4 * y ≤ (2 * (m : ℚ) + 1) ^ 2 := by
  obtain ⟨hhi, hlo, -⟩ := rnsqrt_nearest a b hb
  rw [← hm] at hhi hlo
  have hb' : (0 : ℚ) < b := by exact_mod_cast hb
  have hscale : 4 * y = ((4 * a : Nat) : ℚ) / b := by rw [hy]; push_cast; ring
  rw [hscale, div_le_iff₀' hb', le_div_iff₀' hb', or_iff_not_imp_left]
  refine ⟨fun h0 => ?_, by exact_mod_cast hhi⟩
  have hm1 : 1 ≤ 2 * m := by omega
  have hcast : (2 * (m : ℚ) - 1) = ((2 * m - 1 : Nat) : ℚ) := by push_cast [Nat.cast_sub hm1]; rfl
  rw [hcast]
  exact_mod_cast hlo (Nat.pos_of_ne_zero h0)

/-! The source's formulas as the quotients that are rounded (R208). -/

theorem batteryReal_scaled (r : Int) :
    1000 * batteryReal r * 2 ^ 16 = ((1199308800 * r : Int) : ℚ) / (16383 : Int) := by
  rw [batteryReal]
  push_cast
  ring

theorem currentReal_scaled (r : Int) : currentReal r * 2 ^ 16 = ((15625 * r : Int) : ℚ) / (1408 : Int) := by
  rw [currentReal, instrumentRI]
  push_cast
  ring

theorem cast_toNat_sum_sq (p q : Int) : (((p ^ 2 + q ^ 2).toNat : Nat) : ℚ) = (p : ℚ) ^ 2 + (q : ℚ) ^ 2 := by
  exact_mod_cast congrArg (Int.cast (R := ℚ)) (Int.toNat_of_nonneg (by positivity : 0 ≤ p ^ 2 + q ^ 2))

theorem currentReal_magnitudeSq (p q : Int) :
    magnitudeSq (currentReal p) (currentReal q) * 2 ^ 32 =
      ((244140625 * (p ^ 2 + q ^ 2).toNat : Nat) : ℚ) / (1982464 : Nat) := by
  rw [magnitudeSq, currentReal, currentReal, instrumentRI]
  push_cast [cast_toNat_sum_sq]
  ring

theorem potentialReal_magnitudeSq (p q : Int) :
    magnitudeSq (potentialReal p) (potentialReal q) * 2 ^ 50 =
      ((390625 * (p ^ 2 + q ^ 2).toNat : Nat) : ℚ) / (1 : Nat) := by
  rw [magnitudeSq, potentialReal, potentialReal]
  push_cast [cast_toNat_sum_sq]
  ring

/-- R208's algebra: the scales of potential and current leave the factor 110. -/
theorem phaseRho_scaled {ip iq : Int} (vp vq : Int) (h : 0 < ip ^ 2 + iq ^ 2) :
    phaseRho (potentialReal vp) (potentialReal vq) (currentReal ip) (currentReal iq) * 2 ^ 16 =
      ((7208960 * (vp * ip + vq * iq) : Int) : ℚ) / ((ip ^ 2 + iq ^ 2 : Int) : ℚ) := by
  have hden : ((ip : ℚ) ^ 2 + iq ^ 2) ≠ 0 := by exact_mod_cast h.ne'
  rw [phaseRho, potentialReal, potentialReal, currentReal, currentReal, instrumentRI]
  push_cast
  field_simp
  ring

/-- R208: quadRho is phaseRho of the potential turned by a quarter. -/
theorem quadRho_scaled {ip iq : Int} (vp vq : Int) (h : 0 < ip ^ 2 + iq ^ 2) :
    quadRho (potentialReal vp) (potentialReal vq) (currentReal ip) (currentReal iq) * 2 ^ 16 =
      ((7208960 * (vq * ip - vp * iq) : Int) : ℚ) / ((ip ^ 2 + iq ^ 2 : Int) : ℚ) := by
  have hneg : potentialReal (-vp) = -potentialReal vp := by
    rw [potentialReal, potentialReal]
    push_cast
    ring
  have hturn := phaseRho_scaled vq (-vp) h
  rwa [phaseRho, hneg, neg_mul, neg_mul, ← sub_eq_add_neg, ← sub_eq_add_neg] at hturn

/-! What a command does to the converted registers, before `finish` records its result. -/

/-- A command on channel j changes channel k only if it names it. -/
theorem updateChannel_channels_cases (j : BitVec 8) (f : Channel → Channel) (s : State) (k : Fin 255) :
    (j = BitVec.ofNat 8 k.val ∧ (updateChannel j.toNat f s).channels[k.val] = f s.channels[k.val]) ∨
      (updateChannel j.toNat f s).channels[k.val] = s.channels[k.val] := by
  by_cases hk : k.val = j.toNat
  · refine .inl ⟨?_, updateChannel_channels_of_eq hk f s⟩
    rw [hk, BitVec.ofNat_toNat, BitVec.setWidth_eq]
  · exact .inr (updateChannel_channels_of_ne hk f s)

section
variable {s u : State} {i : Instr} {c : ResultCode}

/-- R33: CALL apart, each frame-level register has one writer. -/
theorem effect_frameConverted (h : Effect s i c u) (hcall : i ≠ .call) :
    (i ≠ .cbat → u.recBatMv = s.recBatMv ∧ u.emBatMv = s.emBatMv) ∧
      (i ≠ .ccur → u.iPMa = s.iPMa ∧ u.iQMa = s.iQMa) ∧ (i ≠ .cmagi → u.iMag = s.iMag) := by
  cases h with
  | callOk => exact absurd rfl hcall
  | _ => simp

/-- R35: CALL apart, a channel changes by a body of its own command, or by VAL's load. -/
theorem effect_channel (h : Effect s i c u) (hcall : i ≠ .call) (k : Fin 255) :
    (i = .cpot (BitVec.ofNat 8 k.val) ∧ u.channels[k.val] = potBody s.channels[k.val]) ∨
    (i = .cmagv (BitVec.ofNat 8 k.val) ∧ u.channels[k.val] = magvBody s.channels[k.val]) ∨
    (i = .crho (BitVec.ofNat 8 k.val) ∧
      u.channels[k.val] = rhoBody s.iPRaw.toInt s.iQRaw.toInt s.channels[k.val]) ∨
    (∃ f n, u.channels[k.val] = loadChannel f n k.val s.channels[k.val]) ∨
    u.channels[k.val] = s.channels[k.val] := by
  cases h with
  | callOk => exact absurd rfl hcall
  | valOk => exact .inr (.inr (.inr (.inl ⟨_, _, by rw [loadFrame_channels, getElem_mapChannels]⟩)))
  | cpotOk j =>
    rcases updateChannel_channels_cases j potBody s k with ⟨rfl, e⟩ | e
    · exact .inl ⟨rfl, e⟩
    · exact .inr (.inr (.inr (.inr e)))
  | cmagvOk j =>
    rcases updateChannel_channels_cases j magvBody s k with ⟨rfl, e⟩ | e
    · exact .inr (.inl ⟨rfl, e⟩)
    · exact .inr (.inr (.inr (.inr e)))
  | crhoOk j =>
    rcases updateChannel_channels_cases j (rhoBody s.iPRaw.toInt s.iQRaw.toInt) s k with ⟨rfl, e⟩ | e
    · exact .inr (.inr (.inl ⟨rfl, e⟩))
    · exact .inr (.inr (.inr (.inr e)))
  | _ => simp

end

end Sys2Proof.Machine

/-- Settles O54: each register holds RNE or RNSQRT of the source's formula, scaled, and the potentials' scale is 625. -/
theorem registersAreTheRoundedRealQuantities : Obligations.RegistersAreTheRoundedRealQuantities := by
  unfold Obligations.RegistersAreTheRoundedRealQuantities
  refine ⟨fun r => ?battery, fun r => ?current, fun r => ?potential, fun p q => ⟨_, rfl, ?currentMag⟩,
    fun p q => ⟨_, rfl, ?potentialMag⟩, fun ip iq vp vq hne => ?resistivity⟩
  case battery => exact abs_fixedPoint_sub_le (by decide) (batteryMv_toNat r) (batteryReal_scaled _)
  case current => exact abs_fixedPoint_sub_le (by decide) (currentMa_toInt r) (currentReal_scaled _)
  case potential =>
    rw [fixedPoint, potentialMv_toInt, potentialReal]
    push_cast
    ring
  case currentMag => exact rnsqrt_sq_bounds (by decide) (currentMag_toNat p q) (currentReal_magnitudeSq _ _)
  case potentialMag => exact rnsqrt_sq_bounds (by decide) (potentialMag_toNat p q) (potentialReal_magnitudeSq _ _)
  case resistivity =>
    have hden := sum_sq_pos hne
    obtain ⟨hphase, hquad⟩ := abs_rho_numerators_le ip iq vp vq
    have hp := resistivity_toInt hden hphase
    have hq := resistivity_toInt hden hquad
    exact ⟨abs_fixedPoint_sub_le hden hp (phaseRho_scaled _ _ hden),
      abs_fixedPoint_sub_le hden hq (quadRho_scaled _ _ hden),
      hp ▸ resistivity_rne_abs_lt hden hphase, hq ▸ resistivity_rne_abs_lt hden hquad⟩

/-- Settles O22: VAL's load writes no converted register, and each body only its own. -/
theorem convertedRegistersWrittenOnlyByTheirCommands : Obligations.ConvertedRegistersWrittenOnlyByTheirCommands := by
  unfold Obligations.ConvertedRegistersWrittenOnlyByTheirCommands
  intro i s t h hi hcall
  obtain ⟨c, u, hu, rfl⟩ := exec_next_effect h hi
  obtain ⟨hbat, hcur, hmagi⟩ := effect_frameConverted hu hcall
  refine ⟨hbat, hcur, hmagi, fun k => ?_⟩
  rw [finish_channels]
  rcases effect_channel hu hcall k with ⟨hcpot, e⟩ | ⟨hcmagv, e⟩ | ⟨hcrho, e⟩ | ⟨f, n, e⟩ | e <;> rw [e]
  · exact ⟨fun hne => absurd hcpot hne, fun _ => rfl, fun _ => ⟨rfl, rfl⟩⟩
  · exact ⟨fun _ => ⟨rfl, rfl⟩, fun hne => absurd hcmagv hne, fun _ => ⟨rfl, rfl⟩⟩
  · rw [rhoBody_frame]
    exact ⟨fun _ => ⟨rfl, rfl⟩, fun _ => rfl, fun hne => absurd hcrho hne⟩
  · rw [loadChannel_frame]
    exact ⟨fun _ => ⟨rfl, rfl⟩, fun _ => rfl, fun _ => ⟨rfl, rfl⟩⟩
  · exact ⟨fun _ => ⟨rfl, rfl⟩, fun _ => rfl, fun _ => ⟨rfl, rfl⟩⟩

end

section
/-! PROOFS. The converter as a whole (`44_converter.md` R207, R209): every conversion command computes a selection of
the converted registers from the raw ones, which it keeps, and two selections in a row compute their union. -/

open Sys2Proof Sys2Proof.Machine Sys2Proof.Claims

namespace Sys2Proof.Machine

/-- Which converted registers a command computes (R33, R35); `pot`, `magv` and `rho` by channel. -/
structure Selection where
  bat : Bool := false
  cur : Bool := false
  magi : Bool := false
  pot : Nat → Bool := fun _ => false
  magv : Nat → Bool := fun _ => false
  rho : Nat → Bool := fun _ => false

/-- What either of two selections computes. -/
def Selection.union (x y : Selection) : Selection where
  bat := x.bat || y.bat
  cur := x.cur || y.cur
  magi := x.magi || y.magi
  pot k := x.pot k || y.pot k
  magv k := x.magv k || y.magv k
  rho k := x.rho k || y.rho k

theorem Selection.union_comm (x y : Selection) : x.union y = y.union x := by
  simp only [Selection.union, Bool.or_comm]

theorem Selection.union_self (x : Selection) : x.union x = x := by
  simp only [Selection.union, Bool.or_self]

/-! Steps taken or left out. -/

/-- `f` if `b` says so. -/
def applyIf {α : Type} (b : Bool) (f : α → α) (x : α) : α := bif b then f x else x

section
variable {α : Type} {f g h : α → α}

theorem applyIf_comm (hfg : ∀ x, f (g x) = g (f x)) (a b : Bool) (x : α) :
    applyIf a f (applyIf b g x) = applyIf b g (applyIf a f x) := by
  cases a
  · rfl
  · cases b
    · rfl
    · exact hfg x

theorem applyIf_applyIf (hf : ∀ x, f (f x) = f x) (a b : Bool) (x : α) :
    applyIf a f (applyIf b f x) = applyIf (a || b) f x := by
  cases a
  · rfl
  · cases b
    · rfl
    · exact hf x

/-- Of three steps that commute and need no repeating, two selections in a row are their union. -/
theorem applyIf_union (hf : ∀ x, f (f x) = f x) (hg : ∀ x, g (g x) = g x) (hh : ∀ x, h (h x) = h x)
    (hgf : ∀ x, g (f x) = f (g x)) (hhf : ∀ x, h (f x) = f (h x)) (hhg : ∀ x, h (g x) = g (h x))
    (a b c a' b' c' : Bool) (x : α) :
    applyIf c h (applyIf b g (applyIf a f (applyIf c' h (applyIf b' g (applyIf a' f x))))) =
      applyIf (c || c') h (applyIf (b || b') g (applyIf (a || a') f x)) := by
  rw [← applyIf_comm hhf, ← applyIf_comm hgf, ← applyIf_comm hhg, applyIf_applyIf hh, applyIf_applyIf hg,
    applyIf_applyIf hf]

end

/-! One channel (R204–R206). -/

section
variable (ip iq : Int) (c : Channel)

theorem potBody_potBody : potBody (potBody c) = potBody c := by
  simp only [potBody, BitVec.or_assoc, BitVec.or_self]

theorem magvBody_magvBody : magvBody (magvBody c) = magvBody c := by
  simp only [magvBody, potentialSquares, BitVec.or_assoc, BitVec.or_self]

theorem magvBody_potBody : magvBody (potBody c) = potBody (magvBody c) := by
  simp only [magvBody, potBody, potentialSquares, BitVec.or_assoc, BitVec.or_comm potOk]

theorem rhoFlags_rhoFlags (f : BitVec 4) (undef : Bool) : rhoFlags (rhoFlags f undef) undef = rhoFlags f undef := by
  decide +revert

theorem rhoFlags_or_potOk (f : BitVec 4) (undef : Bool) :
    rhoFlags (f ||| potOk) undef = rhoFlags f undef ||| potOk := by
  decide +revert

theorem rhoFlags_or_magvOk (f : BitVec 4) (undef : Bool) :
    rhoFlags (f ||| magvOk) undef = rhoFlags f undef ||| magvOk := by
  decide +revert

theorem rhoBody_rhoBody : rhoBody ip iq (rhoBody ip iq c) = rhoBody ip iq c := by
  unfold rhoBody
  split <;> simp only [rhoFlags_rhoFlags]

theorem rhoBody_potBody : rhoBody ip iq (potBody c) = potBody (rhoBody ip iq c) := by
  unfold rhoBody
  split <;> simp only [potBody, rhoFlags_or_potOk]

theorem rhoBody_magvBody : rhoBody ip iq (magvBody c) = magvBody (rhoBody ip iq c) := by
  unfold rhoBody
  split <;> simp only [magvBody, potentialSquares, rhoFlags_or_magvOk]

end

/-- The bodies of CPOT, CMAGV and CRHO on one channel, each if selected. -/
def convertChannel (pot magv rho : Bool) (ip iq : Int) (c : Channel) : Channel :=
  applyIf rho (rhoBody ip iq) (applyIf magv magvBody (applyIf pot potBody c))

theorem convertChannel_convertChannel (pot magv rho pot' magv' rho' : Bool) (ip iq : Int) (c : Channel) :
    convertChannel pot magv rho ip iq (convertChannel pot' magv' rho' ip iq c) =
      convertChannel (pot || pot') (magv || magv') (rho || rho') ip iq c :=
  applyIf_union potBody_potBody magvBody_magvBody (rhoBody_rhoBody ip iq) magvBody_potBody (rhoBody_potBody ip iq)
    (rhoBody_magvBody ip iq) _ _ _ _ _ _ c

/-! The whole block. -/

/-- The selected registers of the frame computed from the raw ones (R201–R203), and their flags set. -/
def Selection.onFrame (x : Selection) (s : State) : State :=
  { s with
    recBatMv := bif x.bat then batteryMv s.recBatRaw else s.recBatMv
    emBatMv := bif x.bat then batteryMv s.emBatRaw else s.emBatMv
    iPMa := bif x.cur then currentMa s.iPRaw else s.iPMa
    iQMa := bif x.cur then currentMa s.iQRaw else s.iQMa
    iMag := bif x.magi then currentMag (currentSquares s) else s.iMag
    cvtFlags := applyIf x.magi (· ||| magiOk)
      (applyIf x.cur (· ||| curOk) (applyIf x.bat (· ||| batOk) s.cvtFlags)) }

/-- The selected registers of channel k computed from the raw ones (R204–R206), and their flags set. -/
def Selection.onChannel (x : Selection) (ip iq : Int) (k : Nat) (c : Channel) : Channel :=
  convertChannel (x.pot k) (x.magv k) (x.rho k) ip iq c

/-- Everything selected computed, without a result recorded. -/
def Selection.apply (x : Selection) (s : State) : State :=
  withChannels (x.onChannel s.iPRaw.toInt s.iQRaw.toInt) (x.onFrame s)

theorem cond_cond_self {α : Type} (a b : Bool) (x y : α) :
    (bif a then x else bif b then x else y) = bif a || b then x else y := by
  cases a <;> rfl

theorem cvtFlags_union (a b c a' b' c' : Bool) (f : BitVec 3) :
    applyIf c (· ||| magiOk) (applyIf b (· ||| curOk) (applyIf a (· ||| batOk)
      (applyIf c' (· ||| magiOk) (applyIf b' (· ||| curOk) (applyIf a' (· ||| batOk) f))))) =
    applyIf (c || c') (· ||| magiOk) (applyIf (b || b') (· ||| curOk) (applyIf (a || a') (· ||| batOk) f)) := by
  have hself : ∀ v f : BitVec 3, f ||| v ||| v = f ||| v := fun v f => by rw [BitVec.or_assoc, BitVec.or_self]
  have hcomm : ∀ v w f : BitVec 3, f ||| w ||| v = f ||| v ||| w := fun v w f => by ac_rfl
  exact applyIf_union (hself batOk) (hself curOk) (hself magiOk) (hcomm curOk batOk) (hcomm magiOk batOk)
    (hcomm magiOk curOk) _ _ _ _ _ _ f

theorem Selection.onFrame_onFrame (x y : Selection) (s : State) : x.onFrame (y.onFrame s) = (x.union y).onFrame s := by
  simp only [Selection.onFrame, Selection.union, currentSquares, cond_cond_self, cvtFlags_union]

theorem Selection.onChannel_onChannel (x y : Selection) (ip iq : Int) (k : Nat) (c : Channel) :
    x.onChannel ip iq k (y.onChannel ip iq k c) = (x.union y).onChannel ip iq k c :=
  convertChannel_convertChannel _ _ _ _ _ _ ip iq c

theorem withChannels_withChannels (f g : Nat → Channel → Channel) (s : State) :
    withChannels f (withChannels g s) = withChannels (fun k c => f k (g k c)) s :=
  congrArg (fun v => { s with channels := v }) (mapChannels_mapChannels g f s.channels)

theorem Selection.onFrame_withChannels (x : Selection) (f : Nat → Channel → Channel) (s : State) :
    x.onFrame (withChannels f s) = withChannels f (x.onFrame s) := by
  simp only [Selection.onFrame, withChannels, currentSquares]

/-- R209: converting twice is converting what either selects, since the raw registers stay. -/
theorem Selection.apply_apply (x y : Selection) (s : State) : x.apply (y.apply s) = (x.union y).apply s :=
  calc x.apply (y.apply s) =
        withChannels (x.onChannel s.iPRaw.toInt s.iQRaw.toInt)
          (x.onFrame (withChannels (y.onChannel s.iPRaw.toInt s.iQRaw.toInt) (y.onFrame s))) := rfl
    _ = (x.union y).apply s := by
        rw [Selection.onFrame_withChannels, withChannels_withChannels, Selection.onFrame_onFrame]
        simp only [Selection.onChannel_onChannel]
        rfl

/-! The selections of the commands (R201–R207). -/

theorem Selection.apply_eq_withChannels {x : Selection} {s s' : State} {f : Nat → Channel → Channel}
    (hframe : x.onFrame s = s') (hch : ∀ k c, x.onChannel s.iPRaw.toInt s.iQRaw.toInt k c = f k c) :
    x.apply s = withChannels f s' := by
  have hf : x.onChannel s.iPRaw.toInt s.iQRaw.toInt = f := funext fun k => funext (hch k)
  rw [Selection.apply, hframe, hf]

theorem withChannels_self (s : State) : withChannels (fun _ c => c) s = s := by
  have hch : mapChannels (fun _ c => c) s.channels = s.channels := by
    ext1 k hk
    rw [getElem_mapChannels]
  rw [withChannels, hch]

@[simp] theorem Selection.apply_none (s : State) : Selection.apply {} s = s :=
  (Selection.apply_eq_withChannels rfl fun _ _ => rfl).trans (withChannels_self s)

@[simp] theorem Selection.apply_bat (s : State) : Selection.apply { bat := true } s = batBody s :=
  (Selection.apply_eq_withChannels rfl fun _ _ => rfl).trans (withChannels_self (batBody s))

@[simp] theorem Selection.apply_cur (s : State) : Selection.apply { cur := true } s = curBody s :=
  (Selection.apply_eq_withChannels rfl fun _ _ => rfl).trans (withChannels_self (curBody s))

theorem Selection.onFrame_magi (s : State) : Selection.onFrame { magi := true } s = magiBody s := by
  rw [Selection.onFrame, magiBody]
  -- Kept opaque, so that the kernel compares the states without evaluating the root.
  generalize currentMag (currentSquares s) = m
  rfl

@[simp] theorem Selection.apply_magi (s : State) : Selection.apply { magi := true } s = magiBody s :=
  (Selection.apply_eq_withChannels (Selection.onFrame_magi s) fun _ _ => rfl).trans (withChannels_self (magiBody s))

theorem applyIf_decide {α : Type} (p : Prop) [Decidable p] (f : α → α) (x : α) :
    applyIf (decide p) f x = if p then f x else x := Bool.cond_decide ..

@[simp] theorem Selection.apply_pot (k : Nat) (s : State) :
    Selection.apply { pot := fun j => decide (j = k) } s = updateChannel k potBody s :=
  Selection.apply_eq_withChannels rfl fun j c => applyIf_decide (j = k) potBody c

@[simp] theorem Selection.apply_magv (k : Nat) (s : State) :
    Selection.apply { magv := fun j => decide (j = k) } s = updateChannel k magvBody s :=
  Selection.apply_eq_withChannels rfl fun j c => applyIf_decide (j = k) magvBody c

@[simp] theorem Selection.apply_rho (k : Nat) (s : State) :
    Selection.apply { rho := fun j => decide (j = k) } s = updateChannel k (rhoBody s.iPRaw.toInt s.iQRaw.toInt) s :=
  Selection.apply_eq_withChannels rfl fun j c => applyIf_decide (j = k) _ c

/-- What CALL selects in a frame of n channels (R207). -/
def Selection.whole (n : Nat) : Selection where
  bat := true
  cur := true
  magi := true
  pot k := decide (k < n)
  magv k := decide (k < n)
  rho k := decide (k < n)

theorem Selection.onFrame_whole (n : Nat) (s : State) :
    (Selection.whole n).onFrame s = magiBody (curBody (batBody s)) := by
  rw [Selection.onFrame, magiBody, currentSquares_curBody, currentSquares_batBody]
  generalize currentMag (currentSquares s) = m
  rfl

theorem Selection.onChannel_whole (n k : Nat) (ip iq : Int) (c : Channel) :
    (Selection.whole n).onChannel ip iq k c = if k < n then channelBody ip iq c else c := by
  change convertChannel (decide (k < n)) (decide (k < n)) (decide (k < n)) ip iq c = _
  by_cases hk : k < n
  · rw [decide_eq_true hk, if_pos hk]
    rfl
  · rw [decide_eq_false hk, if_neg hk]
    rfl

@[simp] theorem Selection.apply_whole (s : State) :
    (Selection.whole s.frameCh.toNat).apply s = allChannels (magiBody (curBody (batBody s))) := by
  rw [Selection.apply_eq_withChannels (Selection.onFrame_whole _ s) fun _ _ => Selection.onChannel_whole _ _ _ _ _,
    allChannels]
  simp

/-! The conversion commands (R201–R207). -/

/-- The code a conversion command ends with and what it computes, read from FRAME_VALID, FRAME_CH and the raw
registers alone (R209). -/
def conversion (s : State) (i : Instr) : ResultCode × Selection :=
  if s.frameValid = false then (.noFrame, {})
  else
    match i with
    | .cbat => (.ok, { bat := true })
    | .ccur => (.ok, { cur := true })
    | .cmagi => (.ok, { magi := true })
    | .cpot k =>
      if channelInFrame s k = false then (.badChannel, {}) else (.ok, { pot := fun j => decide (j = k.toNat) })
    | .cmagv k =>
      if channelInFrame s k = false then (.badChannel, {}) else (.ok, { magv := fun j => decide (j = k.toNat) })
    | .crho k =>
      if channelInFrame s k = false then (.badChannel, {}) else (rhoCode s, { rho := fun j => decide (j = k.toNat) })
    | .call => (callCode s, .whole s.frameCh.toNat)
    | _ => (.ok, {})

/-- Every conversion command is its selection, and `finish`. -/
theorem effect_conversion {s u : State} {i : Instr} {c : ResultCode} (h : Effect s i c u)
    (hi : isConversion i = true) : (conversion s i).1 = c ∧ (conversion s i).2.apply s = u := by
  cases h with
  | cbatNone hv => simp [conversion, hv]
  | cbatOk hv => simp [conversion, hv]
  | ccurNone hv => simp [conversion, hv]
  | ccurOk hv => simp [conversion, hv]
  | cmagiNone hv => simp [conversion, hv]
  | cmagiOk hv => simp [conversion, hv]
  | cpotNone k hv => simp [conversion, hv]
  | cpotBad k hv hk => simp [conversion, hv, hk]
  | cpotOk k hv hk => simp [conversion, hv, hk]
  | cmagvNone k hv => simp [conversion, hv]
  | cmagvBad k hv hk => simp [conversion, hv, hk]
  | cmagvOk k hv hk => simp [conversion, hv, hk]
  | crhoNone k hv => simp [conversion, hv]
  | crhoBad k hv hk => simp [conversion, hv, hk]
  | crhoOk k hv hk => simp [conversion, hv, hk]
  | callNone hv => simp [conversion, hv]
  | callOk hv => simp [conversion, hv]
  | _ => simp [isConversion] at hi

/-- The state in which a conversion command leaves the block. -/
def converted (s : State) (i : Instr) : State :=
  finish (opcodeOf i) (conversion s i).1 ((conversion s i).2.apply s)

theorem exec_conversion {i : Instr} (hi : isConversion i = true) (s : State) :
    exec i s = .next (converted s i) := by
  have hreset : i ≠ .reset := by
    rintro rfl
    cases hi
  obtain ⟨c, u, hu⟩ := effect_exists i s hreset
  obtain ⟨rfl, rfl⟩ := effect_conversion hu hi
  exact exec_of_effect hu

/-- R209: no conversion writes what conversions read. -/
theorem conversion_converted (s : State) (i j : Instr) : conversion (converted s i) j = conversion s j := by
  cases j <;> rfl

theorem Selection.apply_finish (x : Selection) (op : Byte) (c : ResultCode) (s : State) :
    x.apply (finish op c s) = finish op c (x.apply s) := rfl

/-- R209: two conversions in a row compute what either does, and record both codes. -/
theorem converted_converted (s : State) (i j : Instr) :
    converted (converted s i) j =
      finish (opcodeOf j) (conversion s j).1 (finish (opcodeOf i) (conversion s i).1
        (((conversion s j).2.union (conversion s i).2).apply s)) := by
  rw [converted, conversion_converted, converted, Selection.apply_finish, Selection.apply_apply]

theorem finish_finish_self (op : Byte) (c : ResultCode) (s : State) : finish op c (finish op c s) = finish op c s := by
  simp only [finish, raiseFlag_raiseFlag]

theorem finish_finish_comm (op op' : Byte) (c c' : ResultCode) (s : State) :
    finish op c (finish op' c' s) = { finish op' c' (finish op c s) with status := statusWord op c } := by
  simp only [finish, raiseFlag_comm s.errflags c']

/-! Several conversions in a row (R207). -/

/-- What a list of conversions computes. -/
def selectedBy (s : State) (is : List Instr) : Selection where
  bat := is.any fun i => (conversion s i).2.bat
  cur := is.any fun i => (conversion s i).2.cur
  magi := is.any fun i => (conversion s i).2.magi
  pot k := is.any fun i => (conversion s i).2.pot k
  magv k := is.any fun i => (conversion s i).2.magv k
  rho k := is.any fun i => (conversion s i).2.rho k

theorem selectedBy_cons (s : State) (i : Instr) (is : List Instr) :
    selectedBy s (i :: is) = (conversion s i).2.union (selectedBy s is) := rfl

theorem selectedBy_converted (s : State) (i : Instr) (is : List Instr) :
    selectedBy (converted s i) is = selectedBy s is := by
  simp only [selectedBy, conversion_converted]

/-- Conversions in a row compute the union of their selections; their codes show in STATUS and ERRFLAGS alone. -/
theorem runAll_conversions {is : List Instr} (h : ∀ i ∈ is, isConversion i = true) (s : State) :
    ∃ st e, runAll is s = .next { (selectedBy s is).apply s with status := st, errflags := e } := by
  induction is generalizing s with
  | nil => exact ⟨s.status, s.errflags, congrArg Host.Outcome.next (Selection.apply_none s).symm⟩
  | cons i is ih =>
    obtain ⟨st, e, hrun⟩ := ih (fun j hj => h j (List.mem_cons_of_mem i hj)) (converted s i)
    refine ⟨st, e, ?_⟩
    rw [runAll, exec_conversion (h i List.mem_cons_self)]
    change runAll is (converted s i) = _
    rw [hrun, selectedBy_converted, converted, Selection.apply_finish, Selection.apply_apply, selectedBy_cons,
      Selection.union_comm]
    rfl

theorem isConversion_of_mem_callSequence {n : Nat} {i : Instr} (h : i ∈ callSequence n) : isConversion i = true := by
  simp only [callSequence, List.mem_append, List.mem_cons, List.mem_flatMap, List.not_mem_nil, or_false] at h
  rcases h with (rfl | rfl | rfl) | ⟨k, -, rfl | rfl | rfl⟩ <;> rfl

/-- The commands of CALL's sequence on channel j of the frame each select their registers of channel j. -/
theorem conversion_of_lt {s : State} {j : Nat} (hv : s.frameValid = true) (hj : j < s.frameCh.toNat) :
    conversion s (.cpot (BitVec.ofNat 8 j)) = (.ok, { pot := fun k => decide (k = j) }) ∧
    conversion s (.cmagv (BitVec.ofNat 8 j)) = (.ok, { magv := fun k => decide (k = j) }) ∧
    conversion s (.crho (BitVec.ofNat 8 j)) = (rhoCode s, { rho := fun k => decide (k = j) }) := by
  have htoNat : (BitVec.ofNat 8 j).toNat = j := by
    rw [BitVec.toNat_ofNat, Nat.mod_eq_of_lt (hj.trans s.frameCh.isLt)]
  have hin : channelInFrame s (BitVec.ofNat 8 j) = true := channelInFrame_of_lt (htoNat.symm ▸ hj)
  simp [conversion, hv, hin, htoNat]

/-- A register of channel k is selected by the sequence when one command of each channel selects its own. -/
theorem any_callSequence {p : Instr → Bool} {n k : Nat} (hbat : p .cbat = false) (hcur : p .ccur = false)
    (hmagi : p .cmagi = false)
    (hch : ∀ j < n, (p (.cpot (BitVec.ofNat 8 j)) || p (.cmagv (BitVec.ofNat 8 j)) || p (.crho (BitVec.ofNat 8 j))) =
      decide (k = j)) : (callSequence n).any p = decide (k < n) := by
  have hany : (callSequence n).any p = true ↔ ∃ j < n, k = j := by
    simp only [callSequence, List.any_append, List.any_cons, List.any_nil, hbat, hcur, hmagi, Bool.or_false,
      Bool.false_or, List.any_flatMap, List.any_eq_true, List.mem_range, ← Bool.or_assoc]
    refine exists_congr fun j => and_congr_right fun hj => ?_
    rw [hch j hj, decide_eq_true_iff]
  rw [Bool.eq_iff_iff, hany, decide_eq_true_iff]
  exact ⟨fun ⟨j, hj, hk⟩ => hk ▸ hj, fun hk => ⟨k, hk, rfl⟩⟩

theorem selectedBy_callSequence {s : State} (hv : s.frameValid = true) :
    selectedBy s (callSequence s.frameCh.toNat) = .whole s.frameCh.toNat := by
  have hbat : conversion s .cbat = (.ok, { bat := true }) := by simp [conversion, hv]
  have hcur : conversion s .ccur = (.ok, { cur := true }) := by simp [conversion, hv]
  have hmagi : conversion s .cmagi = (.ok, { magi := true }) := by simp [conversion, hv]
  simp only [selectedBy, Selection.whole, Selection.mk.injEq]
  refine ⟨by simp [callSequence, hbat], by simp [callSequence, hcur], by simp [callSequence, hmagi],
    funext fun k => ?_, funext fun k => ?_, funext fun k => ?_⟩
  all_goals
    refine any_callSequence (by rw [hbat]) (by rw [hcur]) (by rw [hmagi]) fun j hj => ?_
    obtain ⟨hpot, hmagv, hrho⟩ := conversion_of_lt hv hj
    simp [hpot, hmagv, hrho]

/-- R207: the flags of a frame converted as a whole. -/
theorem cvtFlags_apply_whole (s : State) : ((Selection.whole s.frameCh.toNat).apply s).cvtFlags = 0b111#3 := by
  have hall : ∀ f : BitVec 3, f ||| batOk ||| curOk ||| magiOk = 0b111#3 := by decide
  exact hall s.cvtFlags

theorem flags_apply_whole (s : State) {k : Fin 255} (hk : k.val < s.frameCh.toNat) :
    ((Selection.whole s.frameCh.toNat).apply s).channels[k.val].flags =
      if s.iPRaw = 0#28 ∧ s.iQRaw = 0#28 then 0b1111#4 else 0b0111#4 := by
  have hall : ∀ (f : BitVec 4) (undef : Bool),
      rhoFlags (f ||| potOk ||| magvOk) undef = if undef = true then 0b1111#4 else 0b0111#4 := by decide
  rw [Selection.apply, withChannels_channels, getElem_mapChannels, Selection.onChannel_whole, if_pos hk, channelBody,
    rhoBody_flags]
  refine (hall _ _).trans ?_
  simp only [decide_eq_true_eq]

theorem callCode_of_undefined {s : State} (h : 0 < s.frameCh.toNat ∧ s.iPRaw = 0#28 ∧ s.iQRaw = 0#28) :
    callCode s = .rhoUndefined :=
  if_pos ⟨h.1, (sum_sq_eq_zero_iff _ _).mpr h.2⟩

theorem callCode_of_defined {s : State} (h : ¬ (0 < s.frameCh.toNat ∧ s.iPRaw = 0#28 ∧ s.iQRaw = 0#28)) :
    callCode s = .ok :=
  if_neg fun hc => h ⟨hc.1, (sum_sq_eq_zero_iff _ _).mp hc.2⟩

end Sys2Proof.Machine

/-- Settles O55: the union of two selections has no order, and of one with itself adds nothing. -/
theorem conversionsRepeatAndCommute : Obligations.ConversionsRepeatAndCommute := by
  unfold Obligations.ConversionsRepeatAndCommute
  constructor
  · intro i s t hi h
    rw [exec_conversion hi] at h
    cases h
    rw [exec_conversion hi, converted_converted, Selection.union_self, finish_finish_self]
    rfl
  · intro i j s ti tij tj tji hi hj hti htij htj htji
    rw [exec_conversion hi] at hti htji
    rw [exec_conversion hj] at htij htj
    cases hti
    cases htj
    cases htij
    cases htji
    rw [converted_converted, converted_converted, Selection.union_comm, finish_finish_comm]

/-- Settles O53: the commands of the sequence select, between them, just what CALL does. -/
theorem callIsItsCommandsInOrder : Obligations.CallIsItsCommandsInOrder := by
  unfold Obligations.CallIsItsCommandsInOrder
  intro s
  refine ⟨fun hv => exec_of_effect (.callNone hv), fun hv => ?_⟩
  obtain ⟨st, e, hrun⟩ := runAll_conversions (fun i => isConversion_of_mem_callSequence (n := s.frameCh.toNat)) s
  rw [selectedBy_callSequence hv] at hrun
  have hcall : exec .call s = .next (finish 0x4F#8 (callCode s) ((Selection.whole s.frameCh.toNat).apply s)) := by
    rw [Selection.apply_whole]
    exact exec_of_effect (.callOk hv)
  refine ⟨_, _, hcall, hrun, cvtFlags_apply_whole s, fun k hk => flags_apply_whole s hk, fun h => ?undefined,
    fun h => ?defined⟩
  case undefined =>
    rw [callCode_of_undefined h]
    rfl
  case defined =>
    rw [callCode_of_defined h]
    rfl

end

section
/-! PROOFS. The control commands (`45_control.md` R240–R242) and what the read port answers after a reset (R39, R280). -/

open Sys2Proof Sys2Proof.Machine

namespace Sys2Proof.Machine

/-- A reset leaves the rows below 0x0100 as at reset, but for RX_CAP's, which is entry 20 of the list. -/
theorem frameMap_resetBlock (s : State) :
    frameMap (resetBlock s) = (frameMap State.reset).set 20 (0x0019#16, BitVec.ofNat 64 s.rxCap) := rfl

/-- Every other row shows a register or a length that is 0 at reset. -/
theorem frameMap_reset_row {row : ReadAddr × ReadData} (h : row ∈ frameMap State.reset) :
    row.1 = 0x0019#16 ∨ row.2 = 0#64 := by
  have hall : (frameMap State.reset).all (fun row => row.1 == 0x0019#16 || row.2 == 0#64) = true := rfl
  simpa using List.all_eq_true.mp hall row h

theorem frameMap_resetBlock_row (s : State) {row : ReadAddr × ReadData} (h : row ∈ frameMap (resetBlock s)) :
    row.1 = 0x0019#16 ∨ row.2 = 0#64 := by
  rw [frameMap_resetBlock] at h
  rcases List.mem_or_eq_of_mem_set h with h | rfl
  · exact frameMap_reset_row h
  · exact .inl rfl

theorem frameMap_resetBlock_lookup (s : State) {a : ReadAddr} (ha : a ≠ 0x0019#16) :
    ((frameMap (resetBlock s)).lookup a).getD 0#64 = 0#64 := by
  cases hrow : (frameMap (resetBlock s)).lookup a with
  | none => rfl
  | some w =>
    obtain ⟨before, after, hsplit, -⟩ := List.lookup_eq_some_iff.mp hrow
    have hmem : (a, w) ∈ frameMap (resetBlock s) := by simp [hsplit]
    exact (frameMap_resetBlock_row s hmem).resolve_left ha

theorem channelWord_reset (p : Nat) : channelWord Channel.reset p = 0#64 := by
  unfold channelWord
  split <;> rfl

theorem channelPage_resetBlock (s : State) (p k : Nat) : channelPage (resetBlock s) p k = 0#64 := by
  by_cases hk : k < 255
  · rw [channelPage_of_lt _ p hk, resetBlock_channels, reset_channels_getElem k hk, channelWord_reset]
  · exact if_neg hk

/-- R280: after a reset the host reads 0 at every address but RX_CAP's. -/
theorem readPort_resetBlock (s : State) {a : ReadAddr} (ha : a ≠ 0x0019#16) : readPort (resetBlock s) a = 0#64 := by
  by_cases hframe : a.toNat < 0x100
  · rw [readPort, if_pos hframe, frameMap_resetBlock_lookup s ha]
  · by_cases hpage : a.toNat < 0x1000
    · rw [readPort_channel _ (by omega) hpage, channelPage_resetBlock]
    · exact (unlistedAddressesReadZero (resetBlock s) a).2 (Nat.le_of_not_lt hpage)

end Sys2Proof.Machine

/-- Settles O28: neither command has a second path, and OK raises no flag. -/
theorem nopAndErrclrResults : Obligations.NopAndErrclrResults := by
  unfold Obligations.NopAndErrclrResults
  exact fun _ => ⟨exec_of_effect .nop, exec_of_effect .errclr⟩

/-- Settles O11: the reset command and the reset input are both `resetBlock`. -/
theorem resetClearsEveryRegister : Obligations.ResetClearsEveryRegister := by
  unfold Obligations.ResetClearsEveryRegister
  intro s
  exact ⟨⟨resetBlock s, exec_reset s, rfl, rfl, rfl, fun _ => readPort_resetBlock s⟩, fun _ => step_resetInput⟩

end

section
/-! PROOFS. Illegal words, completion and the idle block (`60_exceptions.md` R252, R253, R255; R265). -/

open Sys2Proof Sys2Proof.Machine

namespace Sys2Proof.Machine

/-- R87: a word that selects no row does not decode. -/
theorem decode_eq_none_of_illegal {w : Word} (hw : wellFormedWord w = false) : decode w = none := by
  rcases decodeSelectsExactlyOneRow w with ⟨row, hrow, -, hsel, -⟩ | ⟨-, hdec⟩
  · exact absurd hsel (List.any_eq_false.mp hw row hrow)
  · exact hdec

/-- R87, R254: a word that does not decode answers ILLEGAL_CMD. -/
theorem stepCommand_of_decode_none {w : Word} (h : decode w = none) (s : State) :
    stepCommand w s = .next (illegalCommand w s) := by
  simp only [stepCommand, h]

/-- R255: no command stops the block. -/
theorem exec_completes (i : Instr) (s : State) : ∃ t, exec i s = .next t :=
  (exec_keeps_hostSide i s).imp fun _ ⟨h, _⟩ => h

/-- R252, R255: neither does a command word, legal or not. -/
theorem stepCommand_completes (w : Word) (s : State) : ∃ t, stepCommand w s = .next t := by
  cases hdec : decode w with
  | none => exact ⟨_, stepCommand_of_decode_none hdec s⟩
  | some i =>
    rw [stepCommand_of_decode hdec]
    exact exec_completes i s

/-- R252: no stimulus stops the block, and neither does its absence. -/
theorem step_completes (s : State) : StepCompletes s := by
  cases hin : s.hostInputs with
  | nil => exact ⟨s, step_none hin⟩
  | cons x rest =>
    cases x with
    | command w => exact (stepCommand_completes w (takeCommand rest s)).imp fun _ h => (step_command hin).trans h
    | read a => exact ⟨_, step_read hin⟩
    | resetInput => exact ⟨_, step_resetInput hin⟩

end Sys2Proof.Machine

/-- Settles O6: a word that selects no row does not decode, so `illegalCommand` answers it; its code 10 is 0x0A in
STATUS and bit 0x0400 of ERRFLAGS. -/
theorem illegalWordAnswersIllegalCmd : Obligations.IllegalWordAnswersIllegalCmd := by
  unfold Obligations.IllegalWordAnswersIllegalCmd
  intro s w rest hin hw
  calc step s = stepCommand w (takeCommand rest s) := step_command hin
    _ = .next (illegalCommand w (takeCommand rest s)) := stepCommand_of_decode_none (decode_eq_none_of_illegal hw) _
    _ = _ := rfl

/-- Settles O10: a step presents no stimulus, a command word, a read or the reset input, and each completes. -/
theorem everyCommandCompletes : Obligations.EveryCommandCompletes := by
  unfold Obligations.EveryCommandCompletes
  exact ⟨step_completes, exec_completes⟩

/-- Settles O8: the first case of a step. -/
theorem idleBlockHoldsItsState : Obligations.IdleBlockHoldsItsState := by
  unfold Obligations.IdleBlockHoldsItsState
  exact fun _ => step_none

end

section
/-! PROOFS. A VAL repeated on the same buffer (`43_frame_validator.md` R176; R291), and the commands right after reset
(R281). -/

open Sys2Proof Sys2Proof.Machine Sys2Proof.Claims

namespace Sys2Proof.Machine

/-! Loading one frame twice (R176). -/

theorem loadChannel_loadChannel (f : FrameFields) (n k : Nat) (c : Channel) :
    loadChannel f n k (loadChannel f n k c) = loadChannel f n k c := by
  unfold loadChannel
  split <;> rfl

/-- The second load writes what the first one wrote, and counts. -/
theorem loadFrame_loadFrame (f : FrameFields) (s : State) :
    loadFrame f (loadFrame f s) = { loadFrame f s with frameCount := (loadFrame f s).frameCount + 1#32 } := by
  have hchannels : mapChannels (loadChannel f s.actCh.toNat) (mapChannels (loadChannel f s.actCh.toNat) s.channels) =
      mapChannels (loadChannel f s.actCh.toNat) s.channels := by
    simp only [mapChannels_mapChannels, loadChannel_loadChannel]
  simp only [loadFrame, hchannels]

/-! VAL on a valid frame (R176, R291). -/

/-- The state in which a VAL that answers OK leaves the block. -/
def validated (s : State) : State := finish 0x33#8 .ok (loadFrame (extract s.rx s.actCh.toNat) s)

/-- A frame that VAL accepts stands at the front of the buffer. -/
def FrontValid (s : State) : Prop := s.actValid = true ∧ verdict s.rx s.actCh.toNat = .valid

theorem FrontValid.exec_val {s : State} (h : FrontValid s) : exec .val s = .next (validated s) := by
  obtain ⟨hact, hverdict⟩ := h
  exact exec_of_effect (.valOk hact hverdict)

/-- VAL writes none of what its verdict reads. -/
theorem FrontValid.validated {s : State} (h : FrontValid s) : FrontValid (validated s) := h

/-- VAL answers OK on no other state. -/
theorem frontValid_of_exec_val {s t : State} (h : exec .val s = .next t) (hcode : statusCode t = 0#8) :
    FrontValid s ∧ t = validated s := by
  obtain ⟨c, u, heffect, rfl⟩ := exec_next_effect h (by decide)
  obtain rfl : c = .ok := (statusCode_finish_eq_iff _ c .ok u).mp hcode
  cases heffect with
  | valOk hact hverdict => exact ⟨⟨hact, hverdict⟩, rfl⟩

/-- The second VAL extracts the same record from the same bytes. -/
theorem validated_validated (s : State) :
    validated (validated s) = { validated s with frameCount := (validated s).frameCount + 1#32 } :=
  congrArg (finish 0x33#8 .ok) (loadFrame_loadFrame (extract s.rx s.actCh.toNat) s)

/-! The staged configuration at reset (R40, R128). -/

/-- CFG_VOLT = 0 is below its range. -/
theorem not_legalConfig_reset : ¬ LegalConfig State.reset := fun ⟨hvolt, _⟩ => absurd hvolt (by decide)

end Sys2Proof.Machine

/-- Settles O45: a VAL that answers OK loads the frame at the front, and loading it again only counts. -/
theorem repeatedValCountsAgain : Obligations.RepeatedValCountsAgain := by
  unfold Obligations.RepeatedValCountsAgain
  intro s t hval hcode
  obtain ⟨hfront, rfl⟩ := frontValid_of_exec_val hval hcode
  refine ⟨rfl, ?_⟩
  calc exec .val (validated s) = .next (validated (validated s)) := hfront.validated.exec_val
    _ = _ := by rw [validated_validated]

/-- Settles O27: at reset CFG_VALID, ACT_VALID and FRAME_VALID are 0 and the staged configuration is illegal, so each
command takes the path that rejects. -/
theorem commandsAfterReset : Obligations.CommandsAfterReset := by
  unfold Obligations.CommandsAfterReset
  have henc : stagedCheck State.reset = none := stagedCheck_of_not_legalConfig not_legalConfig_reset
  have hframe : State.reset.frameValid = false := rfl
  exact ⟨exec_of_effect (.vackNone rfl), exec_of_effect (.valNone rfl), exec_of_effect (.encFail henc),
    exec_of_effect (.cbatNone hframe), exec_of_effect (.ccurNone hframe), exec_of_effect (.cmagiNone hframe),
    fun k => exec_of_effect_op (op := 0x43#8) (.cpotNone k hframe) rfl,
    fun k => exec_of_effect_op (op := 0x44#8) (.cmagvNone k hframe) rfl,
    fun k => exec_of_effect_op (op := 0x45#8) (.crhoNone k hframe) rfl, exec_of_effect (.callNone hframe)⟩

end
